-- ==== Sys2Proof/Word.lean ====
section
/-! DEFINITION. The words the block moves: R82 (20_memory.md) and R100 (30_encoding.md) give 32-bit CMD, WDATA and RDATA;
R33 (10_state.md) gives 32-bit and 16-bit registers. -/

namespace Sys2Proof

/-- A 32-bit word: CMD, WDATA, RDATA and the 32-bit registers. -/
abbrev Word := BitVec 32

/-- A 16-bit register: PW (unsigned), HOLD and OUT (two's complement, read signed with `BitVec.toInt`), R12. -/
abbrev Half := BitVec 16

/-- A byte, for a host bus that carries words as bytes (R82). -/
abbrev Byte := BitVec 8

end Sys2Proof
end

