-- ==== Sys2Proof/Syntax.lean ====
section
/-! DEFINITION. The commands of the block, one constructor per row of spec/opcode_table.json (R102, R114; 30_encoding.md),
and the pair of words that carries one (R100). -/

namespace Sys2Proof

/-- One transaction on the command port: the command word and the write-data word (R100). -/
structure Command where
  cmd   : Word
  wdata : Word
deriving DecidableEq, Repr

/-- A decoded command. `ch` is the channel number of CMD.CH, used as a plain unsigned index (R103, R110); `data` is the
whole WDATA word of the six commands that use it (R109). The other commands ignore WDATA, so they carry none (log 8). -/
inductive Instr where
  | nop
  | wrInc    (ch : Nat) (data : Word)
  | wrCtrl   (ch : Nat) (data : Word)
  | wrPw     (ch : Nat) (data : Word)
  | wrPhase  (ch : Nat) (data : Word)
  | wrSeed   (ch : Nat) (data : Word)
  | wrSyncph (ch : Nat) (data : Word)
  | chReset  (ch : Nat)
  | rdPhase  (ch : Nat)
  | rdInc    (ch : Nat)
  | rdCtrl   (ch : Nat)
  | rdPw     (ch : Nat)
  | rdSeed   (ch : Nat)
  | rdSyncph (ch : Nat)
  | rdHold   (ch : Nat)
  | rdOut    (ch : Nat)
  | step
  | allReset
  | rdStatus
  | rdId
  | rdConfig
  | clrStatus
deriving DecidableEq, Repr

namespace Instr

/-- The channel a channel command names (R103); none for a global command (R104). -/
def channel? : Instr → Option Nat
  | nop | step | allReset | rdStatus | rdId | rdConfig | clrStatus => none
  | wrInc c _ | wrCtrl c _ | wrPw c _ | wrPhase c _ | wrSeed c _ | wrSyncph c _ => some c
  | chReset c | rdPhase c | rdInc c | rdCtrl c | rdPw c | rdSeed c | rdSyncph c | rdHold c | rdOut c => some c

/-- WDATA as the command uses it (R109); none for a command that ignores WDATA. -/
def data? : Instr → Option Word
  | wrInc _ d | wrCtrl _ d | wrPw _ d | wrPhase _ d | wrSeed _ d | wrSyncph _ d => some d
  | nop | step | allReset | rdStatus | rdId | rdConfig | clrStatus | chReset _ | rdPhase _ | rdInc _ | rdCtrl _ | rdPw _
  | rdSeed _ | rdSyncph _ | rdHold _ | rdOut _ => none

/-- The read commands: those that write RDATA when they succeed (R50, R240). -/
def isRead : Instr → Bool
  | rdPhase _ | rdInc _ | rdCtrl _ | rdPw _ | rdSeed _ | rdSyncph _ | rdHold _ | rdOut _ | rdStatus | rdId | rdConfig => true
  | nop | step | allReset | clrStatus | chReset _ | wrInc _ _ | wrCtrl _ _ | wrPw _ _ | wrPhase _ _ | wrSeed _ _
  | wrSyncph _ _ => false

end Instr

end Sys2Proof
end

