-- ==== Sys2Proof/WellFormed.lean ====
section
/-! DEFINITION. What an instruction must satisfy to have an encoding: its channel number fits the 12-bit CH field
(R101, R103, R116; 30_encoding.md). The data operand is a 32-bit word, so it always fits (R109). -/

namespace Sys2Proof

/-- `ch` in 0..4095 (R116: any other is refused by the assembler). A `ch` in NCH..4095 is well-formed; the command then
fails at run time with CH_RANGE. -/
def Instr.wellFormed (i : Instr) : Bool :=
  match i.channel? with
  | some c => decide (c < 4096)
  | none   => true

/-- `Instr.wellFormed`, as a proposition. -/
abbrev Instr.WellFormed (i : Instr) : Prop := i.wellFormed = true

end Sys2Proof
end

