-- ==== Sys2Proof/Decode.lean ====
section
/-! DEFINITION. Decoding a command word (R101 to R112; 30_encoding.md), the encoding of each instruction (R114, R116), and
the carriage of a word as bytes (R82; 20_memory.md). -/

namespace Sys2Proof

/-- Why a word is illegal: the six grounds of R112, by name. -/
inductive Illegal where
  /-- R112 (2): RSV is not 0. -/
  | reservedBits
  /-- R112 (1): OP is 0xD, 0xE or 0xF. -/
  | unknownOp
  /-- R112 (3): a global command with CH not 0. -/
  | globalChannel
  /-- R112 (4), and OP 0x0 with SEL not 0 (R108, log 13): SEL is not 0 in a command that selects no register. -/
  | selector
  /-- R112 (5): a channel read with SEL 8 or more. -/
  | channelReadSelector
  /-- R112 (6): a global read with SEL 3 or more. -/
  | globalReadSelector
deriving DecidableEq, Repr

/-- What `decode` answers: the instruction, or ILLEGAL with its ground. -/
inductive Decoded where
  | legal   (i : Instr)
  | illegal (why : Illegal)
deriving DecidableEq, Repr

/-- CMD[31:28] (R101). -/
def opField (cmd : Word) : Nat := (cmd.extractLsb' 28 4).toNat
/-- CMD[27:16] (R101). -/
def chField (cmd : Word) : Nat := (cmd.extractLsb' 16 12).toNat
/-- CMD[15:4] (R101). -/
def rsvField (cmd : Word) : Nat := (cmd.extractLsb' 4 12).toNat
/-- CMD[3:0] (R101). -/
def selField (cmd : Word) : Nat := (cmd.extractLsb' 0 4).toNat

/-- OP 0x1 to 0x7: SEL must be 0 (R108). -/
def decodeChannel (sel : Nat) (i : Instr) : Decoded :=
  if sel = 0 then .legal i else .illegal .selector

/-- OP 0x0, 0x9, 0xA, 0xC: CH and SEL must be 0 (R104, R108). -/
def decodeGlobal (ch sel : Nat) (i : Instr) : Decoded :=
  if ch ≠ 0 then .illegal .globalChannel else if sel ≠ 0 then .illegal .selector else .legal i

/-- OP 0x8: SEL selects the register (R106). -/
def decodeChannelRead (ch sel : Nat) : Decoded :=
  match sel with
  | 0 => .legal (.rdPhase ch)
  | 1 => .legal (.rdInc ch)
  | 2 => .legal (.rdCtrl ch)
  | 3 => .legal (.rdPw ch)
  | 4 => .legal (.rdSeed ch)
  | 5 => .legal (.rdSyncph ch)
  | 6 => .legal (.rdHold ch)
  | 7 => .legal (.rdOut ch)
  | _ => .illegal .channelReadSelector

/-- OP 0xB: CH must be 0 (R104); SEL selects the register (R107). -/
def decodeGlobalRead (ch sel : Nat) : Decoded :=
  if ch ≠ 0 then .illegal .globalChannel else
  match sel with
  | 0 => .legal .rdStatus
  | 1 => .legal .rdId
  | 2 => .legal .rdConfig
  | _ => .illegal .globalReadSelector

/-- The dispatch on OP (R102), for a word whose RSV is 0. -/
def decodeOp (op ch sel : Nat) (wdata : Word) : Decoded :=
  match op with
  | 0x0 => decodeGlobal ch sel .nop
  | 0x1 => decodeChannel sel (.wrInc ch wdata)
  | 0x2 => decodeChannel sel (.wrCtrl ch wdata)
  | 0x3 => decodeChannel sel (.wrPw ch wdata)
  | 0x4 => decodeChannel sel (.wrPhase ch wdata)
  | 0x5 => decodeChannel sel (.wrSeed ch wdata)
  | 0x6 => decodeChannel sel (.wrSyncph ch wdata)
  | 0x7 => decodeChannel sel (.chReset ch)
  | 0x8 => decodeChannelRead ch sel
  | 0x9 => decodeGlobal ch sel .step
  | 0xA => decodeGlobal ch sel .allReset
  | 0xB => decodeGlobalRead ch sel
  | 0xC => decodeGlobal ch sel .clrStatus
  | _   => .illegal .unknownOp

/-- The decoder of R111. It reads WDATA only to hand it to the commands that use it (R109). -/
def decode (c : Command) : Decoded :=
  if rsvField c.cmd ≠ 0 then .illegal .reservedBits
  else decodeOp (opField c.cmd) (chField c.cmd) (selField c.cmd) c.wdata

/-- A command word from its fields, RSV 0 (R101). -/
def packWord (op : BitVec 4) (ch : Nat) (sel : BitVec 4) : Word :=
  op ++ BitVec.ofNat 12 ch ++ (0 : BitVec 12) ++ sel

/-- OP of each instruction (R102). -/
def Instr.op : Instr → BitVec 4
  | .nop => 0x0
  | .wrInc _ _ => 0x1
  | .wrCtrl _ _ => 0x2
  | .wrPw _ _ => 0x3
  | .wrPhase _ _ => 0x4
  | .wrSeed _ _ => 0x5
  | .wrSyncph _ _ => 0x6
  | .chReset _ => 0x7
  | .rdPhase _ | .rdInc _ | .rdCtrl _ | .rdPw _ | .rdSeed _ | .rdSyncph _ | .rdHold _ | .rdOut _ => 0x8
  | .step => 0x9
  | .allReset => 0xA
  | .rdStatus | .rdId | .rdConfig => 0xB
  | .clrStatus => 0xC

/-- SEL of each instruction (R106 to R108). -/
def Instr.sel : Instr → BitVec 4
  | .rdPhase _ => 0
  | .rdInc _ => 1
  | .rdCtrl _ => 2
  | .rdPw _ => 3
  | .rdSeed _ => 4
  | .rdSyncph _ => 5
  | .rdHold _ => 6
  | .rdOut _ => 7
  | .rdStatus => 0
  | .rdId => 1
  | .rdConfig => 2
  | .nop | .wrInc _ _ | .wrCtrl _ _ | .wrPw _ _ | .wrPhase _ _ | .wrSeed _ _ | .wrSyncph _ _ | .chReset _ | .step
  | .allReset | .clrStatus => 0

/-- The two words of an instruction: the row of R114 with the channel in CH, and WDATA 0 where the command takes none
(R116). -/
def encode (i : Instr) : Command :=
  { cmd := packWord i.op (i.channel?.getD 0) i.sel, wdata := i.data?.getD 0 }

/-- One row of R114's table: the words it covers are those with `cmd &&& mask = pattern`. -/
structure OpcodeRow where
  mnemonic : String
  pattern  : Word
  mask     : Word
deriving DecidableEq, Repr

/-- R114's table, in its order, written from the table and not from the decoder. -/
def opcodeTable : List OpcodeRow :=
  [⟨"NOP", 0x00000000, 0xFFFFFFFF⟩, ⟨"WR_INC", 0x10000000, 0xF000FFFF⟩, ⟨"WR_CTRL", 0x20000000, 0xF000FFFF⟩,
   ⟨"WR_PW", 0x30000000, 0xF000FFFF⟩, ⟨"WR_PHASE", 0x40000000, 0xF000FFFF⟩, ⟨"WR_SEED", 0x50000000, 0xF000FFFF⟩,
   ⟨"WR_SYNCPH", 0x60000000, 0xF000FFFF⟩, ⟨"CH_RESET", 0x70000000, 0xF000FFFF⟩, ⟨"RD_PHASE", 0x80000000, 0xF000FFFF⟩,
   ⟨"RD_INC", 0x80000001, 0xF000FFFF⟩, ⟨"RD_CTRL", 0x80000002, 0xF000FFFF⟩, ⟨"RD_PW", 0x80000003, 0xF000FFFF⟩,
   ⟨"RD_SEED", 0x80000004, 0xF000FFFF⟩, ⟨"RD_SYNCPH", 0x80000005, 0xF000FFFF⟩, ⟨"RD_HOLD", 0x80000006, 0xF000FFFF⟩,
   ⟨"RD_OUT", 0x80000007, 0xF000FFFF⟩, ⟨"STEP", 0x90000000, 0xFFFFFFFF⟩, ⟨"ALL_RESET", 0xA0000000, 0xFFFFFFFF⟩,
   ⟨"RD_STATUS", 0xB0000000, 0xFFFFFFFF⟩, ⟨"RD_ID", 0xB0000001, 0xFFFFFFFF⟩, ⟨"RD_CONFIG", 0xB0000002, 0xFFFFFFFF⟩,
   ⟨"CLR_STATUS", 0xC0000000, 0xFFFFFFFF⟩]

/-- The row covers the word: `(CMD & mask) = match` (R111). -/
def OpcodeRow.covers (r : OpcodeRow) (cmd : Word) : Bool := cmd &&& r.mask == r.pattern

/-- The mnemonic of an instruction's row (R114). -/
def Instr.mnemonic : Instr → String
  | .nop => "NOP"
  | .wrInc _ _ => "WR_INC"
  | .wrCtrl _ _ => "WR_CTRL"
  | .wrPw _ _ => "WR_PW"
  | .wrPhase _ _ => "WR_PHASE"
  | .wrSeed _ _ => "WR_SEED"
  | .wrSyncph _ _ => "WR_SYNCPH"
  | .chReset _ => "CH_RESET"
  | .rdPhase _ => "RD_PHASE"
  | .rdInc _ => "RD_INC"
  | .rdCtrl _ => "RD_CTRL"
  | .rdPw _ => "RD_PW"
  | .rdSeed _ => "RD_SEED"
  | .rdSyncph _ => "RD_SYNCPH"
  | .rdHold _ => "RD_HOLD"
  | .rdOut _ => "RD_OUT"
  | .step => "STEP"
  | .allReset => "ALL_RESET"
  | .rdStatus => "RD_STATUS"
  | .rdId => "RD_ID"
  | .rdConfig => "RD_CONFIG"
  | .clrStatus => "CLR_STATUS"

/-- A word as the four bytes of a host bus: byte `i` carries bits `[8i+7:8i]` (R82). -/
def wordToBytes (w : Word) : List Byte :=
  [w.extractLsb' 0 8, w.extractLsb' 8 8, w.extractLsb' 16 8, w.extractLsb' 24 8]

/-- The word four bytes carry, byte 0 first (R82). -/
def wordOfBytes (b0 b1 b2 b3 : Byte) : Word := b3 ++ b2 ++ b1 ++ b0

/-- A command from eight bytes, CMD's four and then WDATA's four (DESIGN CHOICE, log 11: R82 fixes the order inside a word
only), with the bytes after it; none where fewer than eight are there. -/
def commandOfBytes : List Byte → Option (Command × List Byte)
  | a0 :: a1 :: a2 :: a3 :: b0 :: b1 :: b2 :: b3 :: rest =>
    some (⟨wordOfBytes a0 a1 a2 a3, wordOfBytes b0 b1 b2 b3⟩, rest)
  | _ => none

/-- The bytes of a command: CMD's and then WDATA's (log 11). -/
def commandToBytes (c : Command) : List Byte := wordToBytes c.cmd ++ wordToBytes c.wdata

/-- The two words whose bits are `w`, CMD the low one; every bit from `nbits` up is 0 (log 11). -/
def commandOfTableWord (nbits w : Nat) : Command :=
  let v := w % 2 ^ nbits
  { cmd := BitVec.ofNat 32 v, wdata := BitVec.ofNat 32 (v / 2 ^ 32) }

/-- The instruction the decoder reads from the bits `w`, numbered as spec/opcode_table.json numbers them. -/
def decodeTableWord (nbits w : Nat) : Option Instr :=
  match decode (commandOfTableWord nbits w) with
  | .legal i   => some i
  | .illegal _ => none

end Sys2Proof
end

