-- ==== Sys2Proof/Machine/Constants.lean ====
section
/-! DEFINITION. The fixed parameters and the defaults of R8 (00_scope.md). -/

namespace Sys2Proof.Machine

/-- `PHASE_BITS`, fixed (R8). -/
def phaseBits : Nat := 32
/-- `LUT_BITS`, fixed (R8). -/
def lutBits : Nat := 10
/-- `INC_MAX = 2^31`, half a turn per sample (R8, R35). -/
def incMax : Nat := 0x80000000
/-- One turn: `2^32` phase units (R34). -/
def turn : Nat := 0x100000000
/-- `FS`, the full scale of the deterministic waveforms (R8). -/
def fullScale : Int := 32767
/-- `LCG_A` (R8, R154). -/
def lcgA : Nat := 1664525
/-- `LCG_C` (R8, R154). -/
def lcgC : Nat := 1013904223
/-- `ID_VALUE` (R8, R52). -/
def idValue : Word := 0x4F534331
/-- The default of `NVOICE` (R8). -/
def nVoiceDefault : Nat := 128
/-- The default of `NOISE_SEED` (R8). -/
def noiseSeedDefault : Word := 0x00000001

end Sys2Proof.Machine
end

