-- ==== Sys2Proof/Config.lean ====
section
/-! DEFINITION. The build parameters an implementation chooses (R8, R9, R147; 93_implementation_defined.md section 2) and
which of them are legal. `NVOICE` is the remaining one: it is the number of contexts a state holds, over two (log 1).
The spec leaves no value of the running machine open, so there is no free value here. -/

namespace Sys2Proof

/-- `NOISE_SEED`, and `SINE_LUT` by its first quarter `Q[0..256]` (log 2). No step writes them (log 3). -/
structure Build where
  noiseSeed : Word
  quarter   : List Half
deriving DecidableEq, Repr

/-- The defaults of R8. -/
def Build.default : Build := { noiseSeed := Machine.noiseSeedDefault, quarter := Machine.sineQuarter }

/-- R147: 257 entries in -32767..32767 with `Q[0] = 0` and `Q[256] = 32767`. Any `NOISE_SEED` is legal (R8). -/
def Build.legal (b : Build) : Bool :=
  b.quarter.length == 257 && b.quarter.all (fun v => v != 0x8000) &&
    Machine.quarterEntry b.quarter 0 == 0 && Machine.quarterEntry b.quarter 256 == 32767

/-- `NCH` is even and in 2..4096 (R8, R9): `NVOICE` in 1..2048. -/
def nchLegal (n : Nat) : Bool := n % 2 == 0 && decide (2 ≤ n) && decide (n ≤ 4096)

end Sys2Proof
end

