-- ==== Sys2Proof/Machine/Registers.lean ====
section
/-! DEFINITION. The registers of a channel context (R33 to R43), the error status (R46) and the command port's inputs
(R100, R320), with the reset value of each (R57; 10_state.md, 30_encoding.md, 70_reset_and_hazards.md). -/

namespace Sys2Proof.Machine

/-- The waveforms CTRL.WAVE selects (R37). Codes 5, 6 and 7 are never stored, so they have no name (log 7). -/
inductive Wave where
  | sine | pulse | saw | noise | random
deriving DecidableEq, Repr

/-- CTRL.WAVE's code of a waveform (R37). -/
def Wave.code : Wave → BitVec 3
  | .sine => 0
  | .pulse => 1
  | .saw => 2
  | .noise => 3
  | .random => 4

/-- The waveform of a code; none for the reserved codes 5, 6, 7 (R37). -/
def Wave.ofCode (v : BitVec 3) : Option Wave :=
  match v.toNat with
  | 0 => some .sine
  | 1 => some .pulse
  | 2 => some .saw
  | 3 => some .noise
  | 4 => some .random
  | _ => none

/-- One channel context `R[c]` (R33). CTRL is held as its two live fields (R36, log 7). -/
structure Channel where
  phase  : Word
  inc    : Word
  wave   : Wave
  syncEn : Bool
  pw     : Half
  seed   : Word
  syncph : Word
  hold   : Half
  out    : Half
deriving DecidableEq, Repr

/-- The reset value of context `c` (R57). -/
def Channel.resetAt (noiseSeed : Word) (c : Nat) : Channel :=
  { phase := 0, inc := 0, wave := .sine, syncEn := false, pw := 0x8000,
    seed := BitVec.ofNat 32 (noiseSeed.toNat + c), syncph := 0, hold := 0, out := 0 }

/-- The values of STATUS.ECODE (R46, R281). The other codes are never recorded. -/
inductive ErrorCode where
  | none | illegalCmd | chRange | badValue
deriving DecidableEq, Repr

/-- STATUS.ECODE's code (R281). -/
def ErrorCode.code : ErrorCode → BitVec 4
  | .none => 0
  | .illegalCmd => 1
  | .chRange => 2
  | .badValue => 3

/-- STATUS, held as its two live fields (R46, log 7). -/
structure Status where
  err   : Bool
  ecode : ErrorCode
deriving DecidableEq, Repr

/-- STATUS after reset and after CLR_STATUS: the whole register is 0 (R57, R209). -/
def Status.zero : Status := { err := false, ecode := .none }

/-- What the host presents, as plain data the step reads: the commands still to come, in order (R89, log 4), and the
level of `rst` at each coming step, released once the list ends (R320, log 5). -/
structure HostPort where
  commands : List Command
  rst      : List Bool
deriving DecidableEq, Repr

/-- Nothing presented, `rst` released (logs 4 and 5). -/
def HostPort.idle : HostPort := { commands := [], rst := [] }

end Sys2Proof.Machine
end

