-- ==== Sys2Proof/Machine/Flags.lean ====
section
/-! DEFINITION. The block's only flags: STATUS.ERR and STATUS.ECODE (R46 to R49; 10_state.md, R283, R285; 60_exceptions.md). -/

namespace Sys2Proof.Machine

/-- STATUS as RD_STATUS reads it: ERR in bit 0, ECODE in bits 7..4, the reserved bits 0 (R46). -/
def Status.word (st : Status) : Word :=
  (st.ecode.code ++ (0 : BitVec 3) ++ BitVec.ofBool st.err).setWidth 32

/-- Recording an error: ERR and ECODE change only when ERR is 0, so ECODE keeps the first error (R283, R285). -/
def Status.record (st : Status) (code : ErrorCode) : Status :=
  if st.err then st else { err := true, ecode := code }

end Sys2Proof.Machine
end

