-- ==== Sys2Proof/Machine/Operands.lean ====
section
/-! DEFINITION. The operand forms: how a command takes its value from WDATA (R109, R110; 30_encoding.md, R201 to R203;
42_channel_write.md) and how a register is carried to RDATA (R84; 20_memory.md, R12; 00_scope.md). -/

namespace Sys2Proof.Machine

/-- WR_INC's value: `min(d, 2^31)` (R201). -/
def incOperand (d : Word) : Word := BitVec.ofNat 32 (min d.toNat incMax)

/-- WR_CTRL's waveform, `d[2:0]`; none for the reserved codes (R202). -/
def waveOperand (d : Word) : Option Wave := Wave.ofCode (d.extractLsb' 0 3)

/-- Only the odd channel of a voice can be synced (R4). -/
def oddChannel (c : Nat) : Bool := c % 2 == 1

/-- WR_CTRL's sync enable: `d[3]` on an odd channel, 0 on an even one (R202, R38). -/
def syncEnOperand (c : Nat) (d : Word) : Bool := oddChannel c && d.getLsbD 3

/-- WR_PW's value, `d[15:0]` (R203). -/
def pwOperand (d : Word) : Half := d.extractLsb' 0 16

/-- `zext_32` (R12). -/
def zext32 (v : Half) : Word := v.setWidth 32

/-- `sext_32` (R12). -/
def sext32 (v : Half) : Word := v.signExtend 32

/-- SYNC_EN of channel `c` as every reader sees it: hardwired to 0 on an even channel (R38, log 6). -/
def Channel.syncEnAt (c : Nat) (ch : Channel) : Bool := oddChannel c && ch.syncEn

/-- CTRL of channel `c` as RD_CTRL reads it: `zext_32({SYNC_EN, WAVE})` (R36, R243). -/
def Channel.ctrlAt (c : Nat) (ch : Channel) : Word :=
  (BitVec.ofBool (ch.syncEnAt c) ++ ch.wave.code).setWidth 32

end Sys2Proof.Machine
end

