-- ==== Sys2Proof/Machine/State.lean ====
section
/-! DEFINITION. The state of the block (R30, R45; 10_state.md), the ways a step can stop (none: R280; 60_exceptions.md) and
the state after reset (R57). -/

namespace Sys2Proof.Machine

/-- Everything the spec gives the block, and what the host presents to it. `ID` and `CONFIG` are constants computed where
they are read (R52, R53); `NCH` is the number of contexts (log 1). -/
structure State where
  chans  : List Channel
  status : Status
  rdata  : Word
  build  : Build
  port   : HostPort
deriving DecidableEq, Repr

/-- The block has no fault state that stops it (R280), so no meaning and no step raises a fault: nothing is in this type.
Safe: the spec names no fault, and the debug-build reading of errors is not the hardware's (R287, log 10). -/
inductive Fault
deriving DecidableEq, Repr

/-- Why an instruction has no meaning here. -/
inductive Refusal where
  /-- Raised only by an arm of `exec` that rejects an instruction by name; no arm does. Safe: the model stops. -/
  | notModelled (mnemonic : String)
deriving DecidableEq, Repr

/-- R57's values for `n` contexts and the build `b`, with nothing presented by the host. -/
def State.resetWith (n : Nat) (b : Build) : State :=
  { chans := (List.range n).map (Channel.resetAt b.noiseSeed), status := .zero, rdata := 0, build := b, port := .idle }

/-- The block right after reset with the default parameters (R57, R8). -/
def State.reset : State := State.resetWith (2 * nVoiceDefault) Build.default

/-- The reset state of a build, refused where the spec refuses the configuration (R8, R9, R147). -/
def State.build? (n : Nat) (b : Build) : Option State :=
  if nchLegal n && b.legal then some (State.resetWith n b) else none

end Sys2Proof.Machine
end

