-- ==== Sys2Proof/Machine/Ops.lean ====
section
/-! DEFINITION. The named operations over the state: the contexts, RDATA, the constants, raising an error and clearing it
(the block's form of taking an exception and returning from one, R283, R289), the reset input and the command port. -/

namespace Sys2Proof.Machine

/-- `NCH`, the number of contexts (R8, log 1). -/
def State.nch (s : State) : Nat := s.chans.length

/-- `R[c]`; none where `c >= NCH` (R81). -/
def State.chan? (s : State) (c : Nat) : Option Channel := s.chans[c]?

/-- Writes registers of `R[c]` and of no other context (R44). -/
def State.modifyChan (s : State) (c : Nat) (f : Channel → Channel) : State :=
  { s with chans := s.chans.modify c f }

/-- Writes every context at once, each from its own number and its own value (R85). -/
def State.mapChans (s : State) (f : Nat → Channel → Channel) : State :=
  { s with chans := s.chans.mapIdx f }

/-- A read's only effect: `RDATA <- value` (R240). -/
def State.writeRdata (s : State) (v : Word) : State := { s with rdata := v }

/-- `raise Error(code)`: STATUS records the first error and nothing else changes (R283). -/
def State.raiseError (s : State) (code : ErrorCode) : State := { s with status := s.status.record code }

/-- The acknowledgement of an error: `STATUS <- 0` (R209, R289). -/
def State.clearStatus (s : State) : State := { s with status := .zero }

/-- CONFIG: `zext_32({PHASE_BITS[5:0], LUT_BITS[3:0], NCH[15:0]})` (R53). -/
def State.configWord (s : State) : Word :=
  (BitVec.ofNat 6 phaseBits ++ BitVec.ofNat 4 lutBits ++ BitVec.ofNat 16 s.nch).setWidth 32

/-- The running state of a context set to 0: PHASE, SYNCPH, HOLD, OUT; INC, CTRL, PW and SEED are kept (R207). -/
def Channel.clearRunning (ch : Channel) : Channel := { ch with phase := 0, syncph := 0, hold := 0, out := 0 }

/-- Every register at R57's value, for this state's own contexts and parameters: what the reset input leaves (R320). -/
def State.resetRegisters (s : State) : State := { State.resetWith s.nch s.build with port := s.port }

/-- `chan_check(c)` and then the command's body on `R[c]`: the shared shape of every channel command (R200). -/
def channelCommand (c : Nat) (s : State) (body : Channel → Host.Outcome State Fault Refusal) :
    Host.Outcome State Fault Refusal :=
  match s.chan? c with
  | none    => .next (s.raiseError .chRange)
  | some ch => body ch

/-- A channel command that writes registers of `R[c]` and does nothing else (R201 to R207). -/
def writeChannel (c : Nat) (s : State) (f : Channel → Channel) : Host.Outcome State Fault Refusal :=
  channelCommand c s fun _ => .next (s.modifyChan c f)

/-- A channel read: `RDATA <- value` of `R[c]` (R240). -/
def readChannel (c : Nat) (s : State) (value : Channel → Word) : Host.Outcome State Fault Refusal :=
  channelCommand c s fun ch => .next (s.writeRdata (value ch))

/-- The level of `rst` at this step (R320, log 5). -/
def State.rstAsserted (s : State) : Bool := s.port.rst.headD false

/-- `cmd_ready`: the block accepts a command exactly while `rst` is released (R100, R320). -/
def State.cmdReady (s : State) : Bool := !s.rstAsserted

/-- The command the host presents, if it presents one: `cmd_valid` with CMD and WDATA (R100). -/
def State.presented (s : State) : Option Command := s.port.commands.head?

/-- A step passes: the host's next level of `rst` comes up. -/
def State.passStep (s : State) : State := { s with port := { s.port with rst := s.port.rst.tail } }

/-- A step passes and the command presented is taken from the port; it is performed exactly once (R100). -/
def State.acceptCommand (s : State) : State :=
  { s with port := { commands := s.port.commands.tail, rst := s.port.rst.tail } }

end Sys2Proof.Machine
end

