-- ==== Sys2Proof/Machine/ChannelWrite.lean ====
section
/-! DEFINITION. The channel writes and CH_RESET (R200 to R207; 42_channel_write.md). -/

namespace Sys2Proof.Machine

/-- WR_INC: `INC <- min(d, 2^31)` (R201). -/
def execWrInc (c : Nat) (d : Word) (s : State) : Host.Outcome State Fault Refusal :=
  writeChannel c s fun ch => { ch with inc := incOperand d }

/-- WR_CTRL: CH_RANGE before BAD_VALUE; a reserved WAVE code stores nothing, SYNC_EN included (R202, R284). -/
def execWrCtrl (c : Nat) (d : Word) (s : State) : Host.Outcome State Fault Refusal :=
  channelCommand c s fun _ =>
    match waveOperand d with
    | none   => .next (s.raiseError .badValue)
    | some w => .next (s.modifyChan c fun ch => { ch with wave := w, syncEn := syncEnOperand c d })

/-- WR_PW: `PW <- d[15:0]` (R203). -/
def execWrPw (c : Nat) (d : Word) (s : State) : Host.Outcome State Fault Refusal :=
  writeChannel c s fun ch => { ch with pw := pwOperand d }

/-- WR_PHASE: `PHASE <- d` (R204). -/
def execWrPhase (c : Nat) (d : Word) (s : State) : Host.Outcome State Fault Refusal :=
  writeChannel c s fun ch => { ch with phase := d }

/-- WR_SEED: `SEED <- d` (R205). -/
def execWrSeed (c : Nat) (d : Word) (s : State) : Host.Outcome State Fault Refusal :=
  writeChannel c s fun ch => { ch with seed := d }

/-- WR_SYNCPH: `SYNCPH <- d`, on an even channel too (R206). -/
def execWrSyncph (c : Nat) (d : Word) (s : State) : Host.Outcome State Fault Refusal :=
  writeChannel c s fun ch => { ch with syncph := d }

/-- CH_RESET: the running state of one channel is cleared (R207). -/
def execChReset (c : Nat) (s : State) : Host.Outcome State Fault Refusal :=
  writeChannel c s Channel.clearRunning

end Sys2Proof.Machine
end

