-- ==== Sys2Proof/Machine/GlobalControl.lean ====
section
/-! DEFINITION. NOP, ALL_RESET and CLR_STATUS (R208 to R210; 42_channel_write.md). -/

namespace Sys2Proof.Machine

/-- NOP: no state changes (R210). -/
def execNop (s : State) : Host.Outcome State Fault Refusal := .next s

/-- ALL_RESET: the running state of every channel is cleared, as one transition; STATUS is kept (R208). -/
def execAllReset (s : State) : Host.Outcome State Fault Refusal :=
  .next (s.mapChans fun _ ch => ch.clearRunning)

/-- CLR_STATUS: `STATUS <- 0` (R209). -/
def execClrStatus (s : State) : Host.Outcome State Fault Refusal := .next s.clearStatus

end Sys2Proof.Machine
end

