-- ==== Sys2Proof/Machine/Readback.lean ====
section
/-! DEFINITION. The register reads (R240 to R252; 43_readback.md). -/

namespace Sys2Proof.Machine

/-- RD_PHASE (R241). -/
def execRdPhase (c : Nat) (s : State) : Host.Outcome State Fault Refusal := readChannel c s fun ch => ch.phase

/-- RD_INC (R242). -/
def execRdInc (c : Nat) (s : State) : Host.Outcome State Fault Refusal := readChannel c s fun ch => ch.inc

/-- RD_CTRL: bits 31..4 read 0, bit 3 reads 0 on an even channel (R243). -/
def execRdCtrl (c : Nat) (s : State) : Host.Outcome State Fault Refusal := readChannel c s fun ch => ch.ctrlAt c

/-- RD_PW: zero-extended (R244). -/
def execRdPw (c : Nat) (s : State) : Host.Outcome State Fault Refusal := readChannel c s fun ch => zext32 ch.pw

/-- RD_SEED (R245). -/
def execRdSeed (c : Nat) (s : State) : Host.Outcome State Fault Refusal := readChannel c s fun ch => ch.seed

/-- RD_SYNCPH (R246). -/
def execRdSyncph (c : Nat) (s : State) : Host.Outcome State Fault Refusal := readChannel c s fun ch => ch.syncph

/-- RD_HOLD: sign-extended (R247). -/
def execRdHold (c : Nat) (s : State) : Host.Outcome State Fault Refusal := readChannel c s fun ch => sext32 ch.hold

/-- RD_OUT: sign-extended (R248). -/
def execRdOut (c : Nat) (s : State) : Host.Outcome State Fault Refusal := readChannel c s fun ch => sext32 ch.out

/-- RD_STATUS: reading does not clear STATUS (R249). -/
def execRdStatus (s : State) : Host.Outcome State Fault Refusal := .next (s.writeRdata s.status.word)

/-- RD_ID: the constant `ID_VALUE` (R250). -/
def execRdId (s : State) : Host.Outcome State Fault Refusal := .next (s.writeRdata idValue)

/-- RD_CONFIG (R251). -/
def execRdConfig (s : State) : Host.Outcome State Fault Refusal := .next (s.writeRdata s.configWord)

end Sys2Proof.Machine
end

