-- ==== Sys2Proof/Machine/Generators.lean ====
section
/-! DEFINITION. The waveform generators (R146 to R157; 41_sample_step.md), on mathematical integers as R11 says: a sample
is computed exactly and narrowed once, where OUT or HOLD takes it. -/

namespace Sys2Proof.Machine

/-- A sample as OUT and HOLD hold it: signed 16-bit two's complement (R12). -/
def sample (y : Int) : Half := BitVec.ofInt 16 y

/-- SINE: `SINE_LUT[p[31:22]]` (R148). -/
def sine (q : List Half) (p : Word) : Half := sineLut q (p.extractLsb' 22 10).toNat

/-- The transition width `m = max(INC, 1)` (R149). -/
def transitionWidth (inc : Word) : Nat := max inc.toNat 1

/-- `clamp(x, lo, hi) = min(max(x, lo), hi)` (R11), as written where the bounds cross (log 14). -/
def clamp (x lo hi : Nat) : Nat := min (max x lo) hi

/-- The pulse threshold `clamp(pw * 2^16, m, 2^32 - m)` (R150). -/
def pulseThreshold (pw : Half) (m : Nat) : Nat := clamp (pw.toNat * 0x10000) m (turn - m)

/-- PULSE, a trapezoid (R151). Every division has a non-negative dividend and `m >= 1`. -/
def pulse (p T m : Nat) : Int :=
  if p < m then -fullScale + (2 * fullScale * p) / m
  else if p < T then fullScale
  else if p < T + m then fullScale - (2 * fullScale * ((p - T : Nat) : Int)) / m
  else -fullScale

/-- The saw peak `clamp(pw * 2^16, m, 2^32 - m)` (R152). -/
def sawPeak (pw : Half) (m : Nat) : Nat := clamp (pw.toNat * 0x10000) m (turn - m)

/-- SAW, piecewise linear (R153). -/
def saw (p P : Nat) : Int :=
  if p < P then -fullScale + (2 * fullScale * p) / P
  else fullScale - (2 * fullScale * ((p - P : Nat) : Int)) / ((turn - P : Nat) : Int)

/-- The LCG step `(LCG_A * s + LCG_C) mod 2^32` (R154). -/
def lcg (s : Word) : Word := BitVec.ofNat 32 (lcgA * s.toNat + lcgC)

/-- A drawn value: the top half of the new generator state, read signed (R155). -/
def draw (s' : Word) : Half := s'.extractLsb' 16 16

/-- NOISE: the sample and the new SEED (R156). -/
def noise (seed : Word) : Half × Word := (draw (lcg seed), lcg seed)

/-- RANDOM: the sample, the new SEED and the new HOLD (R157). -/
def sampleAndHold (seed : Word) (hold : Half) (newcycle : Bool) : Half × Word × Half :=
  if newcycle then (draw (lcg seed), lcg seed, draw (lcg seed)) else (hold, seed, hold)

end Sys2Proof.Machine
end

