-- ==== Sys2Proof/Machine/SampleStep.lean ====
section
/-! DEFINITION. STEP (R140 to R145; 41_sample_step.md): every context advances by one sample, from one snapshot. -/

namespace Sys2Proof.Machine

/-- The hard-sync accumulator: the new SYNCPH and `syncwrap` (R143). -/
def syncAdvance (syncOn : Bool) (masterInc : Word) (syncph : Word) : Word × Bool :=
  if syncOn then
    (BitVec.ofNat 32 (syncph.toNat + masterInc.toNat), decide (turn ≤ syncph.toNat + masterInc.toNat))
  else (syncph, false)

/-- The phase accumulator: the new PHASE and `newcycle` (R142). -/
def phaseAdvance (phase inc : Word) (syncwrap : Bool) : Word × Bool :=
  (if syncwrap then 0 else BitVec.ofNat 32 (phase.toNat + inc.toNat),
   decide (turn ≤ phase.toNat + inc.toNat) || syncwrap)

/-- The new value of a context, from its value before, whether it is synced, and its master's INC (R140, R144). -/
def stepChannel (q : List Half) (syncOn : Bool) (masterInc : Word) (ch : Channel) : Channel :=
  let sync  := syncAdvance syncOn masterInc ch.syncph
  let phase := phaseAdvance ch.phase ch.inc sync.2
  let m     := transitionWidth ch.inc
  let moved := { ch with syncph := sync.1, phase := phase.1 }
  match ch.wave with
  | .sine   => { moved with out := sine q phase.1 }
  | .pulse  => { moved with out := sample (pulse phase.1.toNat (pulseThreshold ch.pw m) m) }
  | .saw    => { moved with out := sample (saw phase.1.toNat (sawPeak ch.pw m)) }
  | .noise  => { moved with out := (noise ch.seed).1, seed := (noise ch.seed).2 }
  | .random =>
    let held := sampleAndHold ch.seed ch.hold phase.2
    { moved with out := held.1, seed := held.2.1, hold := held.2.2 }

/-- INC of the even partner `c - 1` of an odd channel (R143). An even channel is never synced, so what this answers for
one is not used (log 6). -/
def State.masterInc (s : State) (c : Nat) : Word :=
  match s.chan? (c - 1) with
  | some master => master.inc
  | none        => 0

/-- Every context advanced from the snapshot `s` (R140, R141). -/
def State.sampleStep (s : State) : State :=
  s.mapChans fun c ch => stepChannel s.build.quarter (ch.syncEnAt c) (s.masterInc c) ch

/-- STEP (R140). It cannot fail and writes neither STATUS nor RDATA. -/
def execStep (s : State) : Host.Outcome State Fault Refusal := .next s.sampleStep

end Sys2Proof.Machine
end

