-- ==== Sys2Proof/Machine/Dispatch.lean ====
section
/-! DEFINITION. The dispatch: one arm per command, in opcode_table.json's order. -/

namespace Sys2Proof.Machine

/-- What a decoded command does. -/
def exec (i : Instr) (s : State) : Host.Outcome State Fault Refusal :=
  match i with
  | .nop => Sys2Proof.Machine.execNop s
  | .wrInc ch data => Sys2Proof.Machine.execWrInc ch data s
  | .wrCtrl ch data => Sys2Proof.Machine.execWrCtrl ch data s
  | .wrPw ch data => Sys2Proof.Machine.execWrPw ch data s
  | .wrPhase ch data => Sys2Proof.Machine.execWrPhase ch data s
  | .wrSeed ch data => Sys2Proof.Machine.execWrSeed ch data s
  | .wrSyncph ch data => Sys2Proof.Machine.execWrSyncph ch data s
  | .chReset ch => Sys2Proof.Machine.execChReset ch s
  | .rdPhase ch => Sys2Proof.Machine.execRdPhase ch s
  | .rdInc ch => Sys2Proof.Machine.execRdInc ch s
  | .rdCtrl ch => Sys2Proof.Machine.execRdCtrl ch s
  | .rdPw ch => Sys2Proof.Machine.execRdPw ch s
  | .rdSeed ch => Sys2Proof.Machine.execRdSeed ch s
  | .rdSyncph ch => Sys2Proof.Machine.execRdSyncph ch s
  | .rdHold ch => Sys2Proof.Machine.execRdHold ch s
  | .rdOut ch => Sys2Proof.Machine.execRdOut ch s
  | .step => Sys2Proof.Machine.execStep s
  | .allReset => Sys2Proof.Machine.execAllReset s
  | .rdStatus => Sys2Proof.Machine.execRdStatus s
  | .rdId => Sys2Proof.Machine.execRdId s
  | .rdConfig => Sys2Proof.Machine.execRdConfig s
  | .clrStatus => Sys2Proof.Machine.execClrStatus s

end Sys2Proof.Machine
end

