-- ==== Sys2Proof/Machine/Perform.lean ====
section
/-! DEFINITION. What the block does with one command it has accepted: decode first (R284), then the command's own rule, or
ILLEGAL_CMD (R112, R283). -/

namespace Sys2Proof.Machine

/-- One accepted command, performed atomically (R85, R111, R112); an illegal word has no `exec` (log 16). -/
def perform (c : Command) (s : State) : Host.Outcome State Fault Refusal :=
  match decode c with
  | .legal i   => exec i s
  | .illegal _ => .next (s.raiseError .illegalCmd)

/-- One step of the block: while `rst` is asserted no command is accepted and the registers take their reset values
(R320, log 5); else the command presented is performed (R89); with none presented no state changes (R297). -/
def advance (s : State) : Host.Outcome State Fault Refusal :=
  if s.rstAsserted then .next s.passStep.resetRegisters
  else
    match s.presented with
    | some c => perform c s.acceptCommand
    | none   => .next s.passStep

/-- `c` presented as the very next command, with `rst` released for that step (log 4). -/
def State.presentNext (s : State) (c : Command) : State :=
  { s with port := { commands := c :: s.port.commands, rst := false :: s.port.rst } }

end Sys2Proof.Machine
end

