-- ==== Sys2Proof/Machine/Step.lean ====
section
/-! DEFINITION. The machine's step. The block has no program counter (R31): the host's command stream takes its place. -/

namespace Sys2Proof.Machine

/-- One step of the block (R89, R297, R320). -/
def step (s : State) : Host.Outcome State Fault Refusal := advance s

/-- `s` with the command whose bits are `w` presented next, so that the very next step performs it. A step takes one
level of `rst` and one command, so one released level is put before those still to come. -/
def State.withFetchWord (s : State) (nbits w : Nat) : State := s.presentNext (commandOfTableWord nbits w)

end Sys2Proof.Machine
end

