-- ==== Sys2Proof/Machine/Assembler.lean ====
section
/-! DEFINITION. The assembler's syntax of one command (R116, R117; 30_encoding.md): a host tool, which turns a line of text
into the pair (CMD, WDATA). -/

namespace Sys2Proof.Machine

/-- Why the assembler refuses a line. -/
inductive AsmError where
  /-- The first word is no mnemonic of R116. -/
  | mnemonic
  /-- Too few or too many operands for the mnemonic's form (R116). -/
  | operands
  /-- An operand is not a number as R117 writes it. -/
  | number
  /-- `ch` outside 0..4095 (R116). -/
  | channel
  /-- `data` outside `-2^31 .. 2^32-1` (R117). -/
  | data
deriving DecidableEq, Repr

/-- What a line assembles to. -/
inductive Assembled where
  | command (c : Command)
  /-- Nothing but white space and a comment (log 12). -/
  | empty
  | refused (why : AsmError)
deriving DecidableEq, Repr

/-- The operand forms of R116. -/
inductive AsmForm where
  | chData (mk : Nat → Word → Instr)
  | ch     (mk : Nat → Instr)
  | bare   (i : Instr)

/-- The form of a mnemonic, upper case as R116 writes it. The spec does not say whether a line may hold a pseudo-instruction
of R118: here it may not, and such a line is refused as no mnemonic (DESIGN CHOICE, log 18). -/
def asmForm (mnemonic : String) : Option AsmForm :=
  match mnemonic with
  | "NOP" => some (.bare .nop)
  | "STEP" => some (.bare .step)
  | "ALL_RESET" => some (.bare .allReset)
  | "RD_STATUS" => some (.bare .rdStatus)
  | "RD_ID" => some (.bare .rdId)
  | "RD_CONFIG" => some (.bare .rdConfig)
  | "CLR_STATUS" => some (.bare .clrStatus)
  | "CH_RESET" => some (.ch .chReset)
  | "RD_PHASE" => some (.ch .rdPhase)
  | "RD_INC" => some (.ch .rdInc)
  | "RD_CTRL" => some (.ch .rdCtrl)
  | "RD_PW" => some (.ch .rdPw)
  | "RD_SEED" => some (.ch .rdSeed)
  | "RD_SYNCPH" => some (.ch .rdSyncph)
  | "RD_HOLD" => some (.ch .rdHold)
  | "RD_OUT" => some (.ch .rdOut)
  | "WR_INC" => some (.chData .wrInc)
  | "WR_CTRL" => some (.chData .wrCtrl)
  | "WR_PW" => some (.chData .wrPw)
  | "WR_PHASE" => some (.chData .wrPhase)
  | "WR_SEED" => some (.chData .wrSeed)
  | "WR_SYNCPH" => some (.chData .wrSyncph)
  | _ => none

/-- The value of a digit in base 10 or 16. -/
def digitValue (base : Nat) (c : Char) : Option Nat :=
  let n := c.toNat
  let v := if 48 ≤ n ∧ n ≤ 57 then some (n - 48)
    else if 65 ≤ n ∧ n ≤ 70 then some (n - 55)
    else if 97 ≤ n ∧ n ≤ 102 then some (n - 87)
    else none
  v.filter (· < base)

/-- Digits after the value `acc` of those before them. -/
def digitsFrom (base acc : Nat) : List Char → Option Nat
  | [] => some acc
  | c :: cs =>
    match digitValue base c with
    | some d => digitsFrom base (acc * base + d) cs
    | none   => none

/-- One or more digits. -/
def digits (base : Nat) : List Char → Option Nat
  | [] => none
  | cs => digitsFrom base 0 cs

/-- A magnitude in decimal, or in hexadecimal with the prefix `0x` (R117). -/
def magnitude : List Char → Option Nat
  | '0' :: 'x' :: cs => digits 16 cs
  | cs => digits 10 cs

/-- A number of R117, with its sign. -/
def number : List Char → Option Int
  | '-' :: cs => (magnitude cs).map fun n => -(n : Int)
  | cs => (magnitude cs).map fun n => (n : Int)

/-- The WDATA of a `data` operand's value: a negative one in two's complement, `value + 2^32` (R117). -/
def dataOperand (v : Int) : Option Word :=
  if -2147483648 ≤ v ∧ v < 4294967296 then some (BitVec.ofInt 32 v) else none

/-- A `ch` operand: decimal (R117), in 0..4095 (R116). -/
def channelOperand (cs : List Char) : Except AsmError Nat :=
  match digits 10 cs with
  | some c => if c < 4096 then .ok c else .error .channel
  | none   => .error .number

/-- White space between the parts of a line. -/
def blankChar (c : Char) : Bool := c == ' ' || c == '\t'

/-- The text without the white space around it. -/
def trimText (cs : List Char) : List Char :=
  ((cs.dropWhile blankChar).reverse.dropWhile blankChar).reverse

/-- The parts between commas, trimmed. -/
def splitCommas (cs : List Char) : List (List Char) :=
  cs.foldr (fun c acc =>
    match acc with
    | part :: parts => if c == ',' then [] :: part :: parts else (c :: part) :: parts
    | []            => [[c]]) [[]] |>.map trimText

/-- A form applied to its operands' texts. -/
def assembleForm (form : AsmForm) (operands : List (List Char)) : Assembled :=
  match form, operands with
  | .bare i, [] => .command (encode i)
  | .ch mk, [c] =>
    match channelOperand c with
    | .ok c    => .command (encode (mk c))
    | .error e => .refused e
  | .chData mk, [c, d] =>
    match channelOperand c, number d with
    | .error e, _    => .refused e
    | .ok _, none    => .refused .number
    | .ok c, some v  =>
      match dataOperand v with
      | some w => .command (encode (mk c w))
      | none   => .refused .data
  | _, _ => .refused .operands

/-- One line: `MNEMONIC [operand {, operand}]` and a comment from `;` to its end (R116). -/
def assembleLine (line : List Char) : Assembled :=
  let text := trimText (line.takeWhile (· != ';'))
  let rest := trimText (text.dropWhile fun c => !blankChar c)
  match text with
  | [] => .empty
  | _ =>
    match asmForm (String.ofList (text.takeWhile fun c => !blankChar c)) with
    | none      => .refused .mnemonic
    | some form => assembleForm form (if rest.isEmpty then [] else splitCommas rest)

end Sys2Proof.Machine
end

