-- ==== Sys2Proof/Machine/Pseudo.lean ====
section
/-! DEFINITION. The host's pseudo-instructions and their expansions (R118; 30_encoding.md). The block never sees them: it
sees the commands they expand into. -/

namespace Sys2Proof.Machine

/-- A non-negative rational the host writes: a frequency, a duty or the sample rate (log 12). -/
structure Ratio where
  num : Nat
  den : Nat
deriving DecidableEq, Repr

/-- `round(n / d) = floor(n / d + 1/2)` (R118). -/
def roundRatio (n d : Nat) : Nat := (2 * n + d) / (2 * d)

/-- The pseudo-instructions of R118. R118 states no range for the `w` of SET_WAVE and SET_WAVE_SYNC: it is any integer here,
and R117 decides which operands it makes (DESIGN CHOICE, log 17). They are data, not lines of text (DESIGN CHOICE, log 18). -/
inductive Pseudo where
  | setFreq     (ch : Nat) (f : Ratio)
  | setWave     (ch : Nat) (w : Int)
  | setWaveSync (ch : Nat) (w : Int)
  | setDuty     (ch : Nat) (d : Ratio)
  | render      (n : Nat)
  | renderRead  (n ch : Nat)
  | voiceReset  (v : Nat)
  | panic
deriving DecidableEq, Repr

/-- The increment of a frequency: `min(round(f * 2^32 / FS_HZ), 2^31)` (R118). -/
def freqIncrement (fsHz f : Ratio) : Nat := min (roundRatio (f.num * turn * fsHz.den) (f.den * fsHz.num)) incMax

/-- The pulse width of a duty: `min(round(d * 2^16), 0xFFFF)` (R118). -/
def dutyWidth (d : Ratio) : Nat := min (roundRatio (d.num * 0x10000) d.den) 0xFFFF

/-- The expansion at the host's sample rate `fsHz` (R118); none where the row's own condition fails: `f >= 0` and
`FS_HZ > 0` are numbers, `ch` is odd for SET_WAVE_SYNC, `0 <= d <= 1` for SET_DUTY; and none where the operand `w` or
`w + 8` of the WR_CTRL shown is a value R117 refuses (log 17). -/
def Pseudo.expand (fsHz : Ratio) : Pseudo → Option (List Instr)
  | .setFreq ch f =>
    if f.den = 0 ∨ fsHz.num = 0 ∨ fsHz.den = 0 then none
    else some [.wrInc ch (BitVec.ofNat 32 (freqIncrement fsHz f))]
  | .setWave ch w => (dataOperand w).map fun d => [.wrCtrl ch d]
  | .setWaveSync ch w => if oddChannel ch then (dataOperand (w + 8)).map fun d => [.wrCtrl ch d] else none
  | .setDuty ch d =>
    if d.den = 0 ∨ d.den < d.num then none else some [.wrPw ch (BitVec.ofNat 32 (dutyWidth d))]
  | .render n => some (List.replicate n .step)
  | .renderRead n ch => some (List.replicate n [Instr.step, Instr.rdOut ch]).flatten
  | .voiceReset v => some [.chReset (2 * v), .chReset (2 * v + 1)]
  | .panic => some [.allReset]

end Sys2Proof.Machine
end

