-- ==== Sys2Proof/Machine/Run.lean ====
section
/-! DEFINITION. A run and its observation (R14; 00_scope.md, R331; 70_reset_and_hazards.md). -/

namespace Sys2Proof.Machine

/-- What a run shows: RDATA after each read command, the OUT vector after each STEP, and the final state (R331). -/
structure Observation where
  reads  : List Word
  frames : List (List Half)
  final  : State
deriving DecidableEq, Repr

/-- `OUT[0..NCH-1]` (R331). -/
def State.outs (s : State) : List Half := s.chans.map fun ch => ch.out

/-- The word is a read command (R50). -/
def performsRead (c : Command) : Bool :=
  match decode c with
  | .legal i   => i.isRead
  | .illegal _ => false

/-- The word is STEP. -/
def performsStep (c : Command) : Bool :=
  match decode c with
  | .legal i   => i == .step
  | .illegal _ => false

/-- The observation of the commands `cs` performed from `s`, in order. The run ends when the last one has completed
(R331); a command with no meaning would end it sooner, and none is without. -/
def observe : List Command → State → Observation
  | [], s => { reads := [], frames := [], final := s }
  | c :: cs, s =>
    match perform c s with
    | .next t =>
      let o := observe cs t
      { reads  := if performsRead c then t.rdata :: o.reads else o.reads,
        frames := if performsStep c then t.outs :: o.frames else o.frames,
        final  := o.final }
    | .fault _   => { reads := [], frames := [], final := s }
    | .refused _ => { reads := [], frames := [], final := s }

/-- The state after `n` STEPs (RENDER n, R118). -/
def State.render : Nat → State → State
  | 0, s => s
  | n + 1, s =>
    match exec .step s with
    | .next t    => State.render n t
    | .fault _   => s
    | .refused _ => s

end Sys2Proof.Machine
end

