-- ==== Sys2Proof/Safety.lean ====
section
/-! DEFINITION. What counts as a legal state and a safe run: the values the registers may hold (R58, by R35 to R38 and R46;
10_state.md), a legal build (R8, R9, R147), and a run in which no command failed (R280). -/

namespace Sys2Proof.Machine

/-- R35 and R38 for context `c`: `INC <= 2^31`, and SYNC_EN 0 on an even channel. WAVE holds 0 to 4 by its type (R37). -/
def Channel.legalAt (c : Nat) (ch : Channel) : Bool :=
  decide (ch.inc.toNat ≤ incMax) && (oddChannel c || !ch.syncEn)

/-- R46: `ERR = 0 <-> ECODE = 0`. ECODE is at most 3 by its type. -/
def Status.legal (st : Status) : Bool := st.err == (st.ecode != .none)

/-- An explicit state R58 allows, of a build R8, R9 and R147 allow. -/
structure State.Legal (s : State) : Prop where
  nch    : nchLegal s.nch = true
  build  : s.build.legal = true
  chans  : ∀ c ch, s.chan? c = some ch → ch.legalAt c = true
  status : s.status.legal = true

/-- No command has failed since the last clear (R46). -/
def State.noError (s : State) : Bool := !s.status.err

/-- Every sample STEP can leave in SINE, PULSE and SAW mode (R159): `-FS..FS`. -/
def inFullScale (v : Half) : Bool := decide (-fullScale ≤ v.toInt) && decide (v.toInt ≤ fullScale)

end Sys2Proof.Machine
end

