-- ==== Sys2Proof/Certificates/Slice0/Obligations.lean ====
section
/-! DEFINITION. The statements about the model, from the numbered rules of spec/. What a rule says is written here in plain
integer arithmetic and plain record updates, not by the model's own operations. -/

namespace Sys2Proof.Spec

open Sys2Proof.Machine

/-- The state a failing command leaves (R283): `raise Error(code)` and nothing else. -/
def afterError (s : State) (code : ErrorCode) : State :=
  { s with status := if s.status.err then s.status else { err := true, ecode := code } }

/-- The state with context `c` replaced, all else kept. -/
def setChan (s : State) (c : Nat) (ch : Channel) : State := { s with chans := s.chans.set c ch }

/-- The word of a channel command for channel `c`: `match | (c << 16)` (R114). -/
def channelWord (pattern : Word) (c : Nat) : Word := pattern ||| (BitVec.ofNat 32 c <<< 16)

/-- The word is illegal: it decodes to no instruction. -/
def isIllegal (c : Command) : Prop := ∃ why, decode c = .illegal why

/-- OP, CH, RSV and SEL of a command word, as numbers (R101). -/
def op (c : Command) : Nat := c.cmd.toNat / 2 ^ 28
def chan (c : Command) : Nat := c.cmd.toNat / 2 ^ 16 % 2 ^ 12
def rsv (c : Command) : Nat := c.cmd.toNat / 2 ^ 4 % 2 ^ 12
def sel (c : Command) : Nat := c.cmd.toNat % 2 ^ 4

/-- Among the words of this OP only those listed are legal. -/
def onlyWords (o : Nat) (ws : List Word) : Prop := ∀ c : Command, op c = o → c.cmd ∉ ws → isIllegal c

/-- Context `c`, which holds `ch`, is hard-synced: `c` is odd and its SYNC_EN is 1 (R38, R143). -/
def synced (c : Nat) (ch : Channel) : Prop := c % 2 = 1 ∧ ch.syncEn = true

/-- The sync accumulator of context `c` wraps in this STEP (R143). -/
def syncWraps (s : State) (c : Nat) (ch : Channel) : Prop :=
  synced c ch ∧ ∃ master, s.chans[c - 1]? = some master ∧ 2 ^ 32 ≤ ch.syncph.toNat + master.inc.toNat

/-- Context `c` begins a new cycle in this STEP (R142). -/
def newCycle (s : State) (c : Nat) (ch : Channel) : Prop :=
  2 ^ 32 ≤ ch.phase.toNat + ch.inc.toNat ∨ syncWraps s c ch

/-- STEP answers a next state, and in it context `c` holds `ch'`. -/
def stepGives (s : State) (c : Nat) (ch' : Channel) : Prop :=
  ∃ t, exec .step s = .next t ∧ t.chans[c]? = some ch'

/-- One more command after an outcome, where there is a next state. -/
def andThen (o : Host.Outcome State Fault Refusal) (i : Instr) : Host.Outcome State Fault Refusal :=
  match o with
  | .next t    => exec i t
  | .fault r   => .fault r
  | .refused r => .refused r

/-- The read commands of R240 to R251, one by one. -/
def isRead (i : Instr) : Prop :=
  (∃ c, i = .rdPhase c ∨ i = .rdInc c ∨ i = .rdCtrl c ∨ i = .rdPw c ∨ i = .rdSeed c ∨ i = .rdSyncph c ∨ i = .rdHold c ∨
    i = .rdOut c) ∨ i = .rdStatus ∨ i = .rdId ∨ i = .rdConfig

/-- The word is a read command, whether or not its channel exists. -/
def readCommand (c : Command) : Prop := ∃ i, decode c = .legal i ∧ isRead i

/-- `m = max(INC, 1)` (R149). -/
def width (ch : Channel) : Nat := max ch.inc.toNat 1

/-- `clamp(pw * 2^16, m, 2^32 - m)` (R150, R152). -/
def breakpoint (ch : Channel) : Nat := min (max (ch.pw.toNat * 2 ^ 16) (width ch)) (2 ^ 32 - width ch)

/-- `pulse(p, T, m)` (R151), by integer floor division. -/
def pulseValue (p : Nat) (ch : Channel) : Int :=
  let m := width ch
  let T := breakpoint ch
  if p < m then -32767 + ((65534 * p / m : Nat) : Int)
  else if p < T then 32767
  else if p < T + m then 32767 - ((65534 * (p - T) / m : Nat) : Int)
  else -32767

/-- `saw(p, P)` (R153), by integer floor division. -/
def sawValue (p : Nat) (ch : Channel) : Int :=
  let P := breakpoint ch
  if p < P then -32767 + ((65534 * p / P : Nat) : Int)
  else 32767 - ((65534 * (p - P) / (2 ^ 32 - P) : Nat) : Int)

/-- PHASE and SYNCPH of context `c` go from `ch` to `ch'` as R142 and R143 say. -/
def accumulatorsAdvance (s : State) (c : Nat) (ch ch' : Channel) : Prop :=
  (syncWraps s c ch → ch'.phase = 0) ∧
  (¬syncWraps s c ch → ch'.phase.toNat = (ch.phase.toNat + ch.inc.toNat) % 2 ^ 32) ∧
  (¬synced c ch → ch'.syncph = ch.syncph) ∧
  (synced c ch → ∃ master, s.chans[c - 1]? = some master ∧
    ch'.syncph.toNat = (ch.syncph.toNat + master.inc.toNat) % 2 ^ 32)

/-- `signed16(s'[31:16])` of the generator state `(1664525 * seed + 1013904223) mod 2^32` (R154, R155). -/
def nextSeed (seed : Word) : Nat := (1664525 * seed.toNat + 1013904223) % 2 ^ 32
def drawn (seed : Word) : Int :=
  let h : Nat := nextSeed seed / 2 ^ 16
  if h < 2 ^ 15 then (h : Int) else (h : Int) - 2 ^ 16

/-- The contexts after `n` STEPs, followed at context `c`. -/
def follows (s : State) (c : Nat) (x : Nat → Channel) : Prop :=
  s.chans[c]? = some (x 0) ∧ ∀ n, ∃ t, exec .step (s.render n) = .next t ∧ t = s.render (n + 1) ∧ t.chans[c]? = some (x (n + 1))

end Sys2Proof.Spec

open Sys2Proof Sys2Proof.Machine

/-! ### Encoding -/

/-- R101, R111, R114: decoding an encoded well-formed instruction gives it back, whatever its operands. -/
def Obligations.DecodeOfEncodeIsTheInstruction : Prop :=
  ∀ i : Instr, i.WellFormed → decode (encode i) = .legal i

/-- R109, R111: a legal word is the encoding of what it decodes to, and the data operand is WDATA whole. -/
def Obligations.EncodeOfDecodeIsTheWord : Prop :=
  ∀ (c : Command) (i : Instr), decode c = .legal i →
    i.WellFormed ∧ (encode i).cmd = c.cmd ∧ ∀ d, i.data? = some d → d = c.wdata ∧ (encode i).wdata = c.wdata

/-- R111: a word decodes to the unique row that covers it, by the field conditions of R111's pseudocode. -/
def Obligations.CommandWordDecodesToItsUniqueRow : Prop :=
  opcodeTable.Pairwise (fun r r' => ∀ w : Word, ¬(r.covers w = true ∧ r'.covers w = true)) ∧
  ∀ c : Command,
    (∀ i, decode c = .legal i →
      (∃ r ∈ opcodeTable, r.covers c.cmd = true ∧ r.mnemonic = i.mnemonic) ∧
      i.channel? = if 1 ≤ Spec.op c ∧ Spec.op c ≤ 8 then some (Spec.chan c) else none) ∧
    (∀ r ∈ opcodeTable, r.covers c.cmd = true → ∃ i, decode c = .legal i ∧ i.mnemonic = r.mnemonic) ∧
    ((∀ r ∈ opcodeTable, r.covers c.cmd = false) → Spec.isIllegal c) ∧
    ((∃ i, decode c = .legal i) ↔
      Spec.rsv c = 0 ∧
      ((1 ≤ Spec.op c ∧ Spec.op c ≤ 7 ∧ Spec.sel c = 0) ∨
       (Spec.op c = 8 ∧ Spec.sel c ≤ 7) ∨
       ((Spec.op c = 0 ∨ Spec.op c = 9 ∨ Spec.op c = 10 ∨ Spec.op c = 12) ∧ Spec.chan c = 0 ∧ Spec.sel c = 0) ∨
       (Spec.op c = 11 ∧ Spec.chan c = 0 ∧ Spec.sel c ≤ 2)))

/-- R104, R105, R108: a nonzero CH in a global command, a nonzero RSV, a nonzero SEL outside the reads. -/
def Obligations.NonzeroReservedFieldsAreIllegal : Prop :=
  ∀ c : Command,
    ((Spec.op c = 0 ∨ Spec.op c = 9 ∨ Spec.op c = 10 ∨ Spec.op c = 11 ∨ Spec.op c = 12) → Spec.chan c ≠ 0 →
      Spec.isIllegal c) ∧
    (Spec.rsv c ≠ 0 → Spec.isIllegal c) ∧
    (Spec.op c ≠ 8 → Spec.op c ≠ 11 → Spec.sel c ≠ 0 → Spec.isIllegal c)

/-- R106, R107: which register each SEL of the two read groups names, and which SEL are illegal. -/
def Obligations.SelectorsNameTheReadRegisters : Prop :=
  ∀ (c : Command), Spec.rsv c = 0 →
    (Spec.op c = 8 →
      (Spec.sel c = 0 → decode c = .legal (.rdPhase (Spec.chan c))) ∧
      (Spec.sel c = 1 → decode c = .legal (.rdInc (Spec.chan c))) ∧
      (Spec.sel c = 2 → decode c = .legal (.rdCtrl (Spec.chan c))) ∧
      (Spec.sel c = 3 → decode c = .legal (.rdPw (Spec.chan c))) ∧
      (Spec.sel c = 4 → decode c = .legal (.rdSeed (Spec.chan c))) ∧
      (Spec.sel c = 5 → decode c = .legal (.rdSyncph (Spec.chan c))) ∧
      (Spec.sel c = 6 → decode c = .legal (.rdHold (Spec.chan c))) ∧
      (Spec.sel c = 7 → decode c = .legal (.rdOut (Spec.chan c))) ∧
      (8 ≤ Spec.sel c → Spec.isIllegal c)) ∧
    (Spec.op c = 11 → Spec.chan c = 0 →
      (Spec.sel c = 0 → decode c = .legal .rdStatus) ∧
      (Spec.sel c = 1 → decode c = .legal .rdId) ∧
      (Spec.sel c = 2 → decode c = .legal .rdConfig) ∧
      (3 ≤ Spec.sel c → Spec.isIllegal c))

/-- R114: the word of every well-formed instruction is its row's match, with the channel shifted into CH, and the row's
mask leaves out CH exactly for a channel command. -/
def Obligations.EncodedWordIsItsRowsMatchAndChannel : Prop :=
  ∀ i : Instr, i.WellFormed → ∃ r ∈ opcodeTable, r.mnemonic = i.mnemonic ∧
    (∀ c, i.channel? = some c → (encode i).cmd = Spec.channelWord r.pattern c ∧ r.mask = 0xF000FFFF) ∧
    (i.channel? = none → (encode i).cmd = r.pattern ∧ r.mask = 0xFFFFFFFF)

/-- R114, 95_test_vectors.md section 2.1: a few words of the spec decode as it says (a sanity statement). -/
def Obligations.WordsOfTheSpecDecode : Prop :=
  decode ⟨0x80030007, 0⟩ = .legal (.rdOut 3) ∧ decode ⟨0x10FF0000, 5⟩ = .legal (.wrInc 255 5) ∧
  decode ⟨0x90000000, 0⟩ = .legal .step ∧ decode ⟨0x812C0007, 0⟩ = .legal (.rdOut 300) ∧
  decode ⟨0xB0000002, 0⟩ = .legal .rdConfig ∧ decode ⟨0xC0000000, 0⟩ = .legal .clrStatus ∧
  decode ⟨0x20050000, 7⟩ = .legal (.wrCtrl 5 7)

/-! ### A step, reset and errors -/

/-- R89, R100: with `rst` released, the command presented first is the one performed, once; the step takes it and one
level of `rst` off what the host presents (the port is the model's, log 4), and does nothing else around `exec`. -/
def Obligations.StepPerformsThePresentedCommand : Prop :=
  ∀ (s : State) (c : Command) (rest : List Command) (i : Instr),
    s.port.commands = c :: rest → s.port.rst.head? ≠ some true → decode c = .legal i →
    step s = exec i { s with port := { commands := rest, rst := s.port.rst.tail } }

/-- R112 with R283: the step that performs an illegal word records ILLEGAL_CMD and changes no other register. -/
def Obligations.StepOnIllegalWordOnlyRecords : Prop :=
  ∀ (s : State) (c : Command) (rest : List Command),
    s.port.commands = c :: rest → s.port.rst.head? ≠ some true → (∀ r ∈ opcodeTable, r.covers c.cmd = false) →
    step s = .next (Spec.afterError { s with port := { commands := rest, rst := s.port.rst.tail } } .illegalCmd)

/-- R57: while `rst` is asserted every register takes its reset value, and no command is accepted (R320). That the
registers already hold it while `rst` is still asserted is the model's choice (log 5). -/
def Obligations.RstSetsEveryRegister : Prop :=
  ∀ s : State, s.port.rst.head? = some true →
    ∃ t, step s = .next t ∧ t.port.commands = s.port.commands ∧ t.build = s.build ∧
      t.chans.length = s.chans.length ∧ t.status = { err := false, ecode := .none } ∧ t.rdata = 0 ∧
      ∀ c, c < s.chans.length → ∃ ch, t.chans[c]? = some ch ∧
        ch.phase = 0 ∧ ch.inc = 0 ∧ ch.wave = .sine ∧ ch.syncEn = false ∧ ch.pw = 0x8000 ∧
        ch.seed.toNat = (s.build.noiseSeed.toNat + c) % 2 ^ 32 ∧ ch.syncph = 0 ∧ ch.hold = 0 ∧ ch.out = 0

/-- R57, R8: the state after reset, for any number of contexts and any parameters, and with the defaults; what the host
presents is not of the block (logs 4, 5). -/
def Obligations.ResetStateHoldsTheResetValues : Prop :=
  State.reset = State.resetWith 256 Build.default ∧ Build.default.noiseSeed = 1 ∧
  ∀ (m : Nat) (b : Build),
    (State.resetWith m b).chans.length = m ∧ (State.resetWith m b).status = { err := false, ecode := .none } ∧
    (State.resetWith m b).rdata = 0 ∧ (State.resetWith m b).build = b ∧
    ∀ c, c < m → ∃ ch, (State.resetWith m b).chans[c]? = some ch ∧
      ch.phase = 0 ∧ ch.inc = 0 ∧ ch.wave = .sine ∧ ch.syncEn = false ∧ ch.pw = 0x8000 ∧
      ch.seed.toNat = (b.noiseSeed.toNat + c) % 2 ^ 32 ∧ ch.syncph = 0 ∧ ch.hold = 0 ∧ ch.out = 0

/-- R297: with no command presented and `rst` released, no register changes (the port is the model's, log 4). -/
def Obligations.IdleBlockKeepsItsRegisters : Prop :=
  ∀ s : State, s.port.commands = [] → s.port.rst.head? ≠ some true →
    ∃ t, step s = .next t ∧ t.chans = s.chans ∧ t.status = s.status ∧ t.rdata = s.rdata ∧ t.build = s.build ∧
      t.port.commands = []

/-- R280, R286: every command word, legal or not, leaves a next state, and so does every step: the block never stops. -/
def Obligations.EveryCommandAndStepAnswersANextState : Prop :=
  (∀ (c : Command) (s : State), ∃ t, perform c s = .next t) ∧ (∀ s : State, ∃ t, step s = .next t)

/-- R283, R284: the exact effect of an error, and which one is reported. -/
def Obligations.FailingCommandsRecordOneErrorAndNothingElse : Prop :=
  (∀ (c : Command) (s : State), Spec.isIllegal c → perform c s = .next (Spec.afterError s .illegalCmd)) ∧
  (∀ (c : Command) (i : Instr) (n : Nat) (s : State), decode c = .legal i → i.channel? = some n → s.chans.length ≤ n →
    perform c s = .next (Spec.afterError s .chRange)) ∧
  (∀ (c : Command) (n : Nat) (d : Word) (s : State), decode c = .legal (.wrCtrl n d) → n < s.chans.length →
    5 ≤ d.toNat % 8 → perform c s = .next (Spec.afterError s .badValue))

/-- R282: which commands raise which error, row by row, and which never do. -/
def Obligations.ErrorTableByCommand : Prop :=
  (∀ (c : Command) (s : State), (∀ r ∈ opcodeTable, r.covers c.cmd = false) →
    perform c s = .next (Spec.afterError s .illegalCmd)) ∧
  (∀ (i : Instr) (s : State) (n : Nat), i.channel? = some n → s.chans.length ≤ n →
    exec i s = .next (Spec.afterError s .chRange)) ∧
  (∀ (n : Nat) (d : Word) (s : State), n < s.chans.length → 5 ≤ d.toNat % 8 →
    exec (.wrCtrl n d) s = .next (Spec.afterError s .badValue)) ∧
  (∀ (i : Instr) (s : State), (∀ n, i.channel? = some n → n < s.chans.length) →
    (∀ n d, i = .wrCtrl n d → d.toNat % 8 < 5) →
    ∃ t, exec i s = .next t ∧
      t.status = if i = .clrStatus then { err := false, ecode := .none } else s.status)

/-- R285: while ERR is 1 no command but CLR_STATUS changes STATUS, over one command and over any sequence of them. -/
def Obligations.FirstErrorIsKept : Prop :=
  (∀ (c : Command) (s t : State), s.status.err = true → decode c ≠ .legal .clrStatus → perform c s = .next t →
    t.status = s.status) ∧
  (∀ (cs : List Command) (s : State), s.status.err = true → (∀ c ∈ cs, decode c ≠ .legal .clrStatus) →
    (observe cs s).final.status = s.status)

/-! ### The channel writes and the resets -/

/-- R201: WR_INC stores `min(d, 2^31)`; all else is kept. -/
def Obligations.WrIncStoresTheClampedIncrement : Prop :=
  (∀ c d, c < 4096 → encode (.wrInc c d) = ⟨Spec.channelWord 0x10000000 c, d⟩) ∧
  (∀ (c : Nat) (d : Word) (s : State) (ch : Channel), s.chans[c]? = some ch →
    exec (.wrInc c d) s = .next (Spec.setChan s c { ch with inc := if d.toNat ≤ 2 ^ 31 then d else 0x80000000 })) ∧
  (∀ (c : Nat) (d : Word) (s : State), s.chans.length ≤ c → exec (.wrInc c d) s = .next (Spec.afterError s .chRange))

/-- R202: WR_CTRL stores WAVE and, on an odd channel, SYNC_EN; a reserved WAVE code stores nothing. -/
def Obligations.WrCtrlStoresWaveAndSync : Prop :=
  (∀ c d, c < 4096 → encode (.wrCtrl c d) = ⟨Spec.channelWord 0x20000000 c, d⟩) ∧
  (∀ (c : Nat) (d : Word) (s : State) (ch : Channel), s.chans[c]? = some ch → d.toNat % 8 < 5 →
    ∃ w : Wave, w.code.toNat = d.toNat % 8 ∧
      exec (.wrCtrl c d) s = .next (Spec.setChan s c { ch with wave := w, syncEn := decide (c % 2 = 1 ∧ d.toNat / 8 % 2 = 1) })) ∧
  (∀ (c : Nat) (d : Word) (s : State), c < s.chans.length → 5 ≤ d.toNat % 8 →
    exec (.wrCtrl c d) s = .next (Spec.afterError s .badValue)) ∧
  (∀ (c : Nat) (d : Word) (s : State), s.chans.length ≤ c → exec (.wrCtrl c d) s = .next (Spec.afterError s .chRange))

/-- R203: WR_PW stores `d[15:0]`, unclamped. -/
def Obligations.WrPwStoresTheLowHalf : Prop :=
  (∀ c d, c < 4096 → encode (.wrPw c d) = ⟨Spec.channelWord 0x30000000 c, d⟩) ∧
  (∀ (c : Nat) (d : Word) (s : State) (ch : Channel), s.chans[c]? = some ch →
    exec (.wrPw c d) s = .next (Spec.setChan s c { ch with pw := BitVec.ofNat 16 (d.toNat % 2 ^ 16) })) ∧
  (∀ (c : Nat) (d : Word) (s : State), s.chans.length ≤ c → exec (.wrPw c d) s = .next (Spec.afterError s .chRange))

/-- R204, R205, R206: WR_PHASE, WR_SEED and WR_SYNCPH store WDATA whole. -/
def Obligations.WrPhaseSeedSyncphStoreTheWord : Prop :=
  (∀ c d, c < 4096 → encode (.wrPhase c d) = ⟨Spec.channelWord 0x40000000 c, d⟩ ∧
    encode (.wrSeed c d) = ⟨Spec.channelWord 0x50000000 c, d⟩ ∧
    encode (.wrSyncph c d) = ⟨Spec.channelWord 0x60000000 c, d⟩) ∧
  (∀ (c : Nat) (d : Word) (s : State) (ch : Channel), s.chans[c]? = some ch →
    exec (.wrPhase c d) s = .next (Spec.setChan s c { ch with phase := d }) ∧
    exec (.wrSeed c d) s = .next (Spec.setChan s c { ch with seed := d }) ∧
    exec (.wrSyncph c d) s = .next (Spec.setChan s c { ch with syncph := d })) ∧
  (∀ (c : Nat) (d : Word) (s : State), s.chans.length ≤ c →
    exec (.wrPhase c d) s = .next (Spec.afterError s .chRange) ∧
    exec (.wrSeed c d) s = .next (Spec.afterError s .chRange) ∧
    exec (.wrSyncph c d) s = .next (Spec.afterError s .chRange))

/-- R207: CH_RESET clears PHASE, SYNCPH, HOLD and OUT of one channel and keeps INC, CTRL, PW and SEED. -/
def Obligations.ChResetClearsTheRunningState : Prop :=
  (∀ c, c < 4096 → encode (.chReset c) = ⟨Spec.channelWord 0x70000000 c, 0⟩) ∧
  (∀ (c : Nat) (s : State) (ch : Channel), s.chans[c]? = some ch →
    exec (.chReset c) s = .next (Spec.setChan s c { ch with phase := 0, syncph := 0, hold := 0, out := 0 })) ∧
  (∀ (c : Nat) (s : State), s.chans.length ≤ c → exec (.chReset c) s = .next (Spec.afterError s .chRange))

/-- R208: ALL_RESET clears PHASE, SYNCPH, HOLD and OUT of every channel and keeps everything else; it has one word. -/
def Obligations.AllResetClearsEveryChannel : Prop :=
  encode .allReset = ⟨0xA0000000, 0⟩ ∧ Spec.onlyWords 10 [0xA0000000] ∧
  ∀ s : State, exec .allReset s = .next { s with
    chans := s.chans.map fun ch => { ch with phase := 0, syncph := 0, hold := 0, out := 0 } }

/-- R208: the effect of ALL_RESET is exactly CH_RESET on every channel, one after another. -/
def Obligations.AllResetIsChResetOnEveryChannel : Prop :=
  ∀ s : State, exec .allReset s =
    (List.range s.chans.length).foldl (fun o c => Spec.andThen o (.chReset c)) (.next s)

/-- R209, R210: CLR_STATUS zeroes STATUS and keeps everything else; NOP keeps everything; each has one word. -/
def Obligations.ClrStatusAndNop : Prop :=
  encode .clrStatus = ⟨0xC0000000, 0⟩ ∧ Spec.onlyWords 12 [0xC0000000] ∧
  encode .nop = ⟨0x00000000, 0⟩ ∧ Spec.onlyWords 0 [0x00000000] ∧
  ∀ s : State, exec .clrStatus s = .next { s with status := { err := false, ecode := .none } } ∧ exec .nop s = .next s

/-! ### The reads -/

/-- R240 to R248: each channel read writes the register's value to RDATA and changes nothing else; PW is zero-extended, HOLD
and OUT are sign-extended, CTRL reads WAVE in bits 2..0 and SYNC_EN in bit 3, 0 on an even channel. -/
def Obligations.ChannelReadsReturnTheRegister : Prop :=
  (∀ c, c < 4096 →
    encode (.rdPhase c) = ⟨Spec.channelWord 0x80000000 c, 0⟩ ∧ encode (.rdInc c) = ⟨Spec.channelWord 0x80000001 c, 0⟩ ∧
    encode (.rdCtrl c) = ⟨Spec.channelWord 0x80000002 c, 0⟩ ∧ encode (.rdPw c) = ⟨Spec.channelWord 0x80000003 c, 0⟩ ∧
    encode (.rdSeed c) = ⟨Spec.channelWord 0x80000004 c, 0⟩ ∧ encode (.rdSyncph c) = ⟨Spec.channelWord 0x80000005 c, 0⟩ ∧
    encode (.rdHold c) = ⟨Spec.channelWord 0x80000006 c, 0⟩ ∧ encode (.rdOut c) = ⟨Spec.channelWord 0x80000007 c, 0⟩) ∧
  (∀ (c : Nat) (s : State) (ch : Channel), s.chans[c]? = some ch →
    exec (.rdPhase c) s = .next { s with rdata := ch.phase } ∧
    exec (.rdInc c) s = .next { s with rdata := ch.inc } ∧
    (∃ v : Word, v.toNat = ch.wave.code.toNat + (if c % 2 = 1 ∧ ch.syncEn = true then 8 else 0) ∧
      exec (.rdCtrl c) s = .next { s with rdata := v }) ∧
    (∃ v : Word, v.toNat = ch.pw.toNat ∧ exec (.rdPw c) s = .next { s with rdata := v }) ∧
    exec (.rdSeed c) s = .next { s with rdata := ch.seed } ∧
    exec (.rdSyncph c) s = .next { s with rdata := ch.syncph } ∧
    (∃ v : Word, v.toInt = ch.hold.toInt ∧ exec (.rdHold c) s = .next { s with rdata := v }) ∧
    (∃ v : Word, v.toInt = ch.out.toInt ∧ exec (.rdOut c) s = .next { s with rdata := v })) ∧
  (∀ (i : Instr) (c : Nat) (s : State), i.isRead = true → i.channel? = some c → s.chans.length ≤ c →
    exec i s = .next (Spec.afterError s .chRange))

/-- R249 to R251: RD_STATUS, RD_ID and RD_CONFIG, each with one word. -/
def Obligations.GlobalReadsReturnTheRegister : Prop :=
  encode .rdStatus = ⟨0xB0000000, 0⟩ ∧ encode .rdId = ⟨0xB0000001, 0⟩ ∧ encode .rdConfig = ⟨0xB0000002, 0⟩ ∧
  Spec.onlyWords 11 [0xB0000000, 0xB0000001, 0xB0000002] ∧
  ∀ s : State,
    (∃ v : Word, v.toNat = (if s.status.err then 1 else 0) + 2 ^ 4 * s.status.ecode.code.toNat ∧
      exec .rdStatus s = .next { s with rdata := v }) ∧
    exec .rdId s = .next { s with rdata := 0x4F534331 } ∧
    (∃ v : Word, v.toNat = s.chans.length % 2 ^ 16 + 2 ^ 16 * 10 + 2 ^ 20 * 32 ∧
      exec .rdConfig s = .next { s with rdata := v })

/-- R90 (1): a write followed by the read of the same register returns the value written, clamped (INC), narrowed (PW) or
hardwired (SYNC_EN) as its rule says. -/
def Obligations.WriteThenReadReturnsTheValue : Prop :=
  ∀ (c : Nat) (d : Word) (s : State), c < s.chans.length →
    (∃ t u, exec (.wrInc c d) s = .next t ∧ exec (.rdInc c) t = .next u ∧ u.rdata.toNat = min d.toNat (2 ^ 31)) ∧
    (d.toNat % 8 < 5 → ∃ t u, exec (.wrCtrl c d) s = .next t ∧ exec (.rdCtrl c) t = .next u ∧
      u.rdata.toNat = if c % 2 = 1 then d.toNat % 16 else d.toNat % 8) ∧
    (∃ t u, exec (.wrPw c d) s = .next t ∧ exec (.rdPw c) t = .next u ∧ u.rdata.toNat = d.toNat % 2 ^ 16) ∧
    (∃ t u, exec (.wrPhase c d) s = .next t ∧ exec (.rdPhase c) t = .next u ∧ u.rdata = d) ∧
    (∃ t u, exec (.wrSeed c d) s = .next t ∧ exec (.rdSeed c) t = .next u ∧ u.rdata = d) ∧
    (∃ t u, exec (.wrSyncph c d) s = .next t ∧ exec (.rdSyncph c) t = .next u ∧ u.rdata = d)

/-! ### STEP -/

/-- R140: STEP has one word and always completes; what it keeps: STATUS, RDATA, the number of contexts, INC, CTRL and PW of every one; SEED outside NOISE and
RANDOM mode; HOLD outside RANDOM mode. -/
def Obligations.StepFrame : Prop :=
  encode .step = ⟨0x90000000, 0⟩ ∧ Spec.onlyWords 9 [0x90000000] ∧
  ∀ s : State, ∃ t, exec .step s = .next t ∧
    t.status = s.status ∧ t.rdata = s.rdata ∧ t.build = s.build ∧ t.port = s.port ∧
    t.chans.length = s.chans.length ∧
    ∀ c ch, s.chans[c]? = some ch → ∃ ch', t.chans[c]? = some ch' ∧
      ch'.inc = ch.inc ∧ ch'.wave = ch.wave ∧ ch'.syncEn = ch.syncEn ∧ ch'.pw = ch.pw ∧
      (ch.wave ≠ .noise → ch.wave ≠ .random → ch'.seed = ch.seed) ∧
      (ch.wave ≠ .random → ch'.hold = ch.hold) ∧
      (¬Spec.synced c ch → ch'.syncph = ch.syncph)

/-- R142: the new PHASE; the new cycle, which RANDOM mode shows by a draw; and SINE, PULSE and SAW give their waveform at
the new phase. -/
def Obligations.StepAdvancesPhaseAndFindsNewCycle : Prop :=
  ∀ (s : State) (c : Nat) (ch : Channel), s.chans[c]? = some ch →
    ∃ ch', Spec.stepGives s c ch' ∧
      (Spec.syncWraps s c ch → ch'.phase = 0) ∧
      (¬Spec.syncWraps s c ch → ch'.phase.toNat = (ch.phase.toNat + ch.inc.toNat) % 2 ^ 32) ∧
      (ch.wave = .random → Spec.newCycle s c ch → ch'.seed.toNat = Spec.nextSeed ch.seed) ∧
      (ch.wave = .random → ¬Spec.newCycle s c ch → ch'.seed = ch.seed) ∧
      (ch.wave = .sine → ch'.out = sineLut s.build.quarter (ch'.phase.toNat / 2 ^ 22)) ∧
      (ch.wave = .pulse → ch'.out.toInt = Spec.pulseValue ch'.phase.toNat ch) ∧
      (ch.wave = .saw → ch'.out.toInt = Spec.sawValue ch'.phase.toNat ch)

/-- R143: SYNCPH moves by the master's INC while sync is on and is kept while it is off; its wrap sets PHASE to 0 in the
same STEP, and SINE, PULSE and SAW give their sample at phase 0. -/
def Obligations.StepAdvancesTheSyncAccumulator : Prop :=
  ∀ (s : State) (c : Nat) (ch : Channel), s.chans[c]? = some ch →
    ∃ ch', Spec.stepGives s c ch' ∧
      (¬Spec.synced c ch → ch'.syncph = ch.syncph) ∧
      (Spec.synced c ch → ∃ master, s.chans[c - 1]? = some master ∧
        ch'.syncph.toNat = (ch.syncph.toNat + master.inc.toNat) % 2 ^ 32 ∧
        (2 ^ 32 ≤ ch.syncph.toNat + master.inc.toNat →
          ch'.phase = 0 ∧ (ch.wave = .sine → ch'.out = sineLut s.build.quarter 0) ∧
          (ch.wave = .pulse ∨ ch.wave = .saw → ch'.out.toInt = -32767)) ∧
        (ch.syncph.toNat + master.inc.toNat < 2 ^ 32 →
          ch'.phase.toNat = (ch.phase.toNat + ch.inc.toNat) % 2 ^ 32))

/-- R148: SINE's sample is the table entry of the advanced phase's top ten bits. -/
def Obligations.StepSineSample : Prop :=
  ∀ (s : State) (c : Nat) (ch : Channel), s.chans[c]? = some ch → ch.wave = .sine →
    ∃ ch', Spec.stepGives s c ch' ∧ ch'.out = sineLut s.build.quarter (ch'.phase.toNat / 2 ^ 22) ∧
      ch'.seed = ch.seed ∧ ch'.hold = ch.hold

/-- R149, R150, R151: PULSE's sample at the advanced phase, by integer floor division; with a legal INC the threshold keeps
one transition width on either side. -/
def Obligations.StepPulseSample : Prop :=
  ∀ (s : State) (c : Nat) (ch : Channel), s.chans[c]? = some ch → ch.wave = .pulse →
    ∃ ch', Spec.stepGives s c ch' ∧ ch'.seed = ch.seed ∧ ch'.hold = ch.hold ∧
      ch'.out.toInt = Spec.pulseValue ch'.phase.toNat ch ∧ 1 ≤ Spec.width ch ∧
      (ch.inc.toNat ≤ 2 ^ 31 → Spec.width ch ≤ 2 ^ 31 ∧ Spec.width ch ≤ Spec.breakpoint ch ∧
        Spec.breakpoint ch + Spec.width ch ≤ 2 ^ 32)

/-- R149, R152, R153: SAW's sample at the advanced phase; the peak lies inside the turn, and with a legal INC no segment is
shorter than the transition width. -/
def Obligations.StepSawSample : Prop :=
  ∀ (s : State) (c : Nat) (ch : Channel), s.chans[c]? = some ch → ch.wave = .saw →
    ∃ ch', Spec.stepGives s c ch' ∧ ch'.seed = ch.seed ∧ ch'.hold = ch.hold ∧
      ch'.out.toInt = Spec.sawValue ch'.phase.toNat ch ∧
      1 ≤ Spec.breakpoint ch ∧ Spec.breakpoint ch ≤ 2 ^ 32 - 1 ∧
      (ch.inc.toNat ≤ 2 ^ 31 → Spec.width ch ≤ 2 ^ 31 ∧ Spec.width ch ≤ Spec.breakpoint ch ∧
        Spec.width ch ≤ 2 ^ 32 - Spec.breakpoint ch)

/-- R154, R155, R156: NOISE draws in every STEP, writes SEED and OUT, keeps HOLD; PHASE and SYNCPH advance as in every
mode. -/
def Obligations.StepNoiseSample : Prop :=
  ∀ (s : State) (c : Nat) (ch : Channel), s.chans[c]? = some ch → ch.wave = .noise →
    ∃ ch', Spec.stepGives s c ch' ∧ ch'.seed.toNat = Spec.nextSeed ch.seed ∧ ch'.out.toInt = Spec.drawn ch.seed ∧
      ch'.hold = ch.hold ∧ Spec.accumulatorsAdvance s c ch ch'

/-- R157: RANDOM draws and holds in a STEP that begins a new cycle, else gives the held value. -/
def Obligations.StepRandomSample : Prop :=
  ∀ (s : State) (c : Nat) (ch : Channel), s.chans[c]? = some ch → ch.wave = .random →
    ∃ ch', Spec.stepGives s c ch' ∧
      (Spec.newCycle s c ch →
        ch'.seed.toNat = Spec.nextSeed ch.seed ∧ ch'.out.toInt = Spec.drawn ch.seed ∧ ch'.hold = ch'.out) ∧
      (¬Spec.newCycle s c ch → ch'.seed = ch.seed ∧ ch'.hold = ch.hold ∧ ch'.out = ch.hold)

/-- R159: SINE, PULSE and SAW stay in -32767..32767; NOISE and RANDOM in -32768..32767. SINE's part needs a table R147
allows. -/
def Obligations.SamplesStayInRange : Prop :=
  ∀ (s : State) (c : Nat) (ch : Channel), s.chans[c]? = some ch →
    ∃ ch', Spec.stepGives s c ch' ∧ -32768 ≤ ch'.out.toInt ∧ ch'.out.toInt ≤ 32767 ∧
      (ch.wave = .pulse ∨ ch.wave = .saw → -32767 ≤ ch'.out.toInt) ∧
      (ch.wave = .sine → s.build.legal = true → -32767 ≤ ch'.out.toInt)

/-- R147: what every allowed table satisfies: 1024 entries in -32767..32767, R146's three symmetries from the first
quarter, `SINE_LUT[0] = 0` and `SINE_LUT[256] = 32767`; and the default table is one of them. -/
def Obligations.SineTableSymmetriesAndRange : Prop :=
  Build.default.legal = true ∧
  ∀ b : Build, b.legal = true →
    sineLut b.quarter 0 = 0 ∧ (sineLut b.quarter 256).toInt = 32767 ∧
    ∀ k, k < 1024 →
      (-32767 ≤ (sineLut b.quarter k).toInt ∧ (sineLut b.quarter k).toInt ≤ 32767) ∧
      (k ≤ 256 → b.quarter[k]? = some (sineLut b.quarter k)) ∧
      (256 < k → k ≤ 512 → sineLut b.quarter k = sineLut b.quarter (512 - k)) ∧
      (512 < k → (sineLut b.quarter k).toInt = -(sineLut b.quarter (k - 512)).toInt)

/-! ### Sequences of STEPs -/

/-- R160: with sync off PHASE after `n` STEPs is `(p0 + n*i) mod 2^32`, and where `i` divides `2^32` the samples of SINE,
PULSE and SAW repeat every `2^32 / i` STEPs. -/
def Obligations.PhaseAfterStepsAndPeriod : Prop :=
  ∀ (s : State) (c : Nat) (ch : Channel), s.chans[c]? = some ch → ¬Spec.synced c ch → 0 < ch.inc.toNat →
    ∃ x : Nat → Channel, Spec.follows s c x ∧
      (∀ n, (x n).phase.toNat = (ch.phase.toNat + n * ch.inc.toNat) % 2 ^ 32) ∧
      (ch.inc.toNat ∣ 2 ^ 32 → ch.wave = .sine ∨ ch.wave = .pulse ∨ ch.wave = .saw →
        ∀ n, 1 ≤ n → (x (n + 2 ^ 32 / ch.inc.toNat)).out = (x n).out)

/-- R158: in RANDOM mode with sync off and `0 < INC <= 2^31`, draws happen exactly in the STEPs whose PHASE carries; two
successive draws are `floor(2^32/i)` or `ceil(2^32/i)` STEPs apart, never fewer than 2; and the first `n` STEPs hold
`floor((p0 + n*i) / 2^32)` draws, which is one in `2^32/i` on average. -/
def Obligations.RandomHoldLength : Prop :=
  ∀ (s : State) (c : Nat) (ch : Channel), s.chans[c]? = some ch → ch.wave = .random → ¬Spec.synced c ch →
    0 < ch.inc.toNat → ch.inc.toNat ≤ 2 ^ 31 →
    ∃ x : Nat → Channel, Spec.follows s c x ∧
      (∀ n, 2 ^ 32 ≤ (x n).phase.toNat + ch.inc.toNat →
        (x (n + 1)).seed.toNat = Spec.nextSeed (x n).seed ∧ (x (n + 1)).out.toInt = Spec.drawn (x n).seed ∧
        (x (n + 1)).hold = (x (n + 1)).out) ∧
      (∀ n, (x n).phase.toNat + ch.inc.toNat < 2 ^ 32 →
        (x (n + 1)).seed = (x n).seed ∧ (x (n + 1)).hold = (x n).hold ∧ (x (n + 1)).out = (x n).hold) ∧
      (∀ a b, a < b → 2 ^ 32 ≤ (x a).phase.toNat + ch.inc.toNat → 2 ^ 32 ≤ (x b).phase.toNat + ch.inc.toNat →
        (∀ k, a < k → k < b → (x k).phase.toNat + ch.inc.toNat < 2 ^ 32) →
        (b - a = 2 ^ 32 / ch.inc.toNat ∨ b - a = (2 ^ 32 + ch.inc.toNat - 1) / ch.inc.toNat) ∧ 2 ≤ b - a) ∧
      (∀ n, ((List.range n).filter fun k => decide (2 ^ 32 ≤ (x k).phase.toNat + ch.inc.toNat)).length =
        (ch.phase.toNat + n * ch.inc.toNat) / 2 ^ 32)

/-- R143: SYNCPH of a synced slave stays equal to its master's PHASE once the two are equal. -/
def Obligations.SyncAccumulatorTracksTheMaster : Prop :=
  ∀ (s : State) (v : Nat) (master slave : Channel), s.chans[2 * v]? = some master → s.chans[2 * v + 1]? = some slave →
    slave.syncEn = true → slave.syncph = master.phase →
    ∀ n, ∃ master' slave', (s.render n).chans[2 * v]? = some master' ∧ (s.render n).chans[2 * v + 1]? = some slave' ∧
      slave'.syncph = master'.phase

/-- R156: two NOISE channels with equal SEED give equal samples, STEP after STEP. -/
def Obligations.EqualSeedsGiveEqualNoise : Prop :=
  ∀ (s : State) (c d : Nat) (a b : Channel), s.chans[c]? = some a → s.chans[d]? = some b →
    a.wave = .noise → b.wave = .noise → a.seed = b.seed →
    ∀ n, 1 ≤ n → ∃ a' b', (s.render n).chans[c]? = some a' ∧ (s.render n).chans[d]? = some b' ∧
      a'.out = b'.out ∧ a'.seed = b'.seed

/-- R322: after reset, for any number of contexts, any NOISE_SEED and any table R147 allows, every STEP leaves every OUT
0 as long as no command writes INC, CTRL or PHASE; reads, resets, the other writes, NOP, CLR_STATUS and illegal words may
come between. -/
def Obligations.ResetStateIsSilent : Prop :=
  ∀ (m : Nat) (b : Build) (cs : List Command), b.legal = true →
    (∀ c ∈ cs, ∀ n d, decode c ≠ .legal (.wrInc n d) ∧ decode c ≠ .legal (.wrCtrl n d) ∧
      decode c ≠ .legal (.wrPhase n d)) →
    (∀ f ∈ (observe cs (State.resetWith m b)).frames, f = List.replicate m 0) ∧
    ∀ n, n < m → ∃ ch, (observe cs (State.resetWith m b)).final.chans[n]? = some ch ∧
      ch.wave = .sine ∧ ch.inc = 0 ∧ ch.phase = 0 ∧ ch.out = 0

/-! ### Independence of the contexts -/

/-- R141: what STEP makes of a context depends on that context and, where it is synced, on its master's INC, which STEP
does not write. -/
def Obligations.StepOfAContextReadsOnlyItAndTheMastersIncrement : Prop :=
  ∀ (s s' : State) (c : Nat) (ch : Channel), s.chans[c]? = some ch → s'.chans[c]? = some ch →
    s.build.quarter = s'.build.quarter →
    (Spec.synced c ch → (s.chans[c - 1]?).map (·.inc) = (s'.chans[c - 1]?).map (·.inc)) →
    ∃ ch', Spec.stepGives s c ch' ∧ Spec.stepGives s' c ch' ∧ ch'.inc = ch.inc

/-- R3: over any number of STEPs, the engine gives each voice what a copy of the engine holding that voice alone gives
it. -/
def Obligations.EngineEqualsSeparateVoices : Prop :=
  ∀ (s : State) (v n : Nat) (osc1 osc2 : Channel), s.chans[2 * v]? = some osc1 → s.chans[2 * v + 1]? = some osc2 →
    (s.render n).chans[2 * v]? = (State.render n { s with chans := [osc1, osc2] }).chans[0]? ∧
    (s.render n).chans[2 * v + 1]? = (State.render n { s with chans := [osc1, osc2] }).chans[1]?

/-- R44: a command that names channel `c` writes only `R[c]`, STATUS and RDATA, and what it writes there depends only on
them and on NCH (that `c` names a context). -/
def Obligations.ChannelCommandTouchesOneContext : Prop :=
  ∀ (i : Instr) (c : Nat), i.channel? = some c →
    (∀ s : State, ∃ t, exec i s = .next t ∧ t.chans.length = s.chans.length ∧ t.build = s.build ∧ t.port = s.port ∧
      ∀ k, k ≠ c → t.chans[k]? = s.chans[k]?) ∧
    (∀ s s' : State, s.chans[c]? = s'.chans[c]? → s.status = s'.status → s.rdata = s'.rdata →
      ∃ t t', exec i s = .next t ∧ exec i s' = .next t' ∧ t.chans[c]? = t'.chans[c]? ∧ t.status = t'.status ∧
        t.rdata = t'.rdata)

/-! ### Whole-machine rules -/

/-- R34 to R43, R50, R56: which commands write RDATA and each register of a context; each can change only by a command
listed for it. (STATUS: ErrorTableByCommand.) -/
def Obligations.OnlyListedCommandsWriteARegister : Prop :=
  ∀ (i : Instr) (s : State), ∃ t, exec i s = .next t ∧
    (i.isRead = false → t.rdata = s.rdata) ∧
    ∀ (c : Nat) (ch : Channel), s.chans[c]? = some ch → ∃ ch', t.chans[c]? = some ch' ∧
      ((∀ d, i ≠ .wrInc c d) → ch'.inc = ch.inc) ∧
      ((∀ d, i ≠ .wrCtrl c d) → ch'.wave = ch.wave ∧ ch'.syncEn = ch.syncEn) ∧
      ((∀ d, i ≠ .wrPw c d) → ch'.pw = ch.pw) ∧
      (i ≠ .step → (∀ d, i ≠ .wrSeed c d) → ch'.seed = ch.seed) ∧
      (i ≠ .step → i ≠ .chReset c → i ≠ .allReset →
        ((∀ d, i ≠ .wrPhase c d) → ch'.phase = ch.phase) ∧
        ((∀ d, i ≠ .wrSyncph c d) → ch'.syncph = ch.syncph) ∧
        ch'.hold = ch.hold ∧ ch'.out = ch.out)

/-- R86, R212: every command but STEP, and every word that fails, does twice what it does once. -/
def Obligations.EveryCommandButStepIsIdempotent : Prop :=
  ∀ (c : Command) (s : State), decode c ≠ .legal .step →
    ∃ t, perform c s = .next t ∧ perform c t = .next t

/-- R35, R37, R38, R46, R9, R147: a step from a legal state (R58) leaves a legal state. -/
def Obligations.StepKeepsTheStateLegal : Prop :=
  ∀ s : State, s.Legal → ∀ t, step s = .next t → t.Legal

/-- R57, R58: the state after reset is legal, and so is the reset state of every build the spec allows. -/
def Obligations.ResetStatesAreLegal : Prop :=
  State.reset.Legal ∧ ∀ (n : Nat) (b : Build) (s : State), State.build? n b = some s → s.Legal

/-- R89, R100, R331: presenting the commands `cs` and stepping once for each ends in the final state of the run `cs` (the
port and the level of `rst` in it are the model's, logs 4 and 5). -/
def Obligations.SteppingThroughCommandsIsTheRun : Prop :=
  ∀ (cs : List Command) (s : State),
    core.run cs.length { s with port := { commands := cs, rst := [] } } =
      .next (observe cs { s with port := { commands := [], rst := [] } }).final

/-- R331: a read command, failing or not, shows RDATA after it; a STEP shows the OUT vector after it; no other command shows
anything; the final state is the one the last command leaves. So the observation has one RDATA value per read, one OUT
vector of NCH samples per STEP, in order: the observation of two sequences one after the other is the one's and then the
other's. -/
def Obligations.ObservationFollowsTheCommands : Prop :=
  (∀ c : Command, (performsRead c = true ↔ Spec.readCommand c) ∧ (performsStep c = true ↔ decode c = .legal .step)) ∧
  (∀ s : State, (observe [] s).reads = [] ∧ (observe [] s).frames = [] ∧ (observe [] s).final = s) ∧
  (∀ (c : Command) (s t : State), perform c s = .next t →
    (Spec.readCommand c → (observe [c] s).reads = [t.rdata]) ∧
    (¬Spec.readCommand c → (observe [c] s).reads = []) ∧
    (decode c = .legal .step → (observe [c] s).frames = [t.chans.map (·.out)]) ∧
    (decode c ≠ .legal .step → (observe [c] s).frames = []) ∧
    (observe [c] s).final = t) ∧
  ∀ (cs ds : List Command) (s : State),
    (observe cs s).reads.length = (cs.filter performsRead).length ∧
    (observe cs s).frames.length = (cs.filter performsStep).length ∧
    (∀ f ∈ (observe cs s).frames, f.length = s.chans.length) ∧
    (observe (cs ++ ds) s).reads = (observe cs s).reads ++ (observe ds (observe cs s).final).reads ∧
    (observe (cs ++ ds) s).frames = (observe cs s).frames ++ (observe ds (observe cs s).final).frames ∧
    (observe (cs ++ ds) s).final = (observe ds (observe cs s).final).final

/-! ### The host side -/

/-- R118: SET_FREQ stores `min(round(f * 2^32 / FS_HZ), 2^31)`, with `round(x) = floor(x + 1/2)` on rationals. -/
def Obligations.SetFreqStoresTheRoundedIncrement : Prop :=
  ∀ (fsHz f : Ratio) (c : Nat) (s : State) (ch : Channel), s.chans[c]? = some ch →
    0 < f.den → 0 < fsHz.num → 0 < fsHz.den →
    ∃ i t v, (Pseudo.setFreq c f).expand fsHz = some [i] ∧ exec i s = .next t ∧
      t = (Spec.setChan s c { ch with inc := v }) ∧
      (v.toNat : Int) = min ⌊((f.num : ℚ) / f.den) * 2 ^ 32 / ((fsHz.num : ℚ) / fsHz.den) + 1 / 2⌋ (2 ^ 31)

/-- R117: a data operand in `0 .. 2^32-1` or `-2^31 .. -1` is encoded, a negative one as `value + 2^32`; any other is
refused. -/
def Obligations.DataOperandsAreTwosComplement : Prop :=
  ∀ v : Int,
    (0 ≤ v → v < 2 ^ 32 → ∃ w, dataOperand v = some w ∧ (w.toNat : Int) = v) ∧
    (-2 ^ 31 ≤ v → v < 0 → ∃ w, dataOperand v = some w ∧ (w.toNat : Int) = v + 2 ^ 32) ∧
    (v < -2 ^ 31 ∨ 2 ^ 32 ≤ v → dataOperand v = none)

/-- R82: carried as bytes, byte `i` of a word carries bits `[8i+7:8i]`, and the word is read back from its bytes. -/
def Obligations.WordsAreCarriedLittleEndian : Prop :=
  ∀ w : Word, ∃ b0 b1 b2 b3 : Byte, wordToBytes w = [b0, b1, b2, b3] ∧ wordOfBytes b0 b1 b2 b3 = w ∧
    b0.toNat = w.toNat % 2 ^ 8 ∧ b1.toNat = w.toNat / 2 ^ 8 % 2 ^ 8 ∧ b2.toNat = w.toNat / 2 ^ 16 % 2 ^ 8 ∧
    b3.toNat = w.toNat / 2 ^ 24 % 2 ^ 8
end

