-- ==== Sys2Proof/Laws/Decode.lean ====
section
/-! SUPPORT. The fields of a packed word, and what a decoded instruction's fields are. -/

namespace Sys2Proof

theorem opField_eq (w : Word) : opField w = w.toNat / 2 ^ 28 := by
  have := w.isLt
  simp only [opField, BitVec.extractLsb'_toNat, Nat.shiftRight_eq_div_pow]; omega

theorem chField_eq (w : Word) : chField w = w.toNat / 2 ^ 16 % 2 ^ 12 := by
  simp only [chField, BitVec.extractLsb'_toNat, Nat.shiftRight_eq_div_pow]

theorem rsvField_eq (w : Word) : rsvField w = w.toNat / 2 ^ 4 % 2 ^ 12 := by
  simp only [rsvField, BitVec.extractLsb'_toNat, Nat.shiftRight_eq_div_pow]

theorem selField_eq (w : Word) : selField w = w.toNat % 2 ^ 4 := by
  simp only [selField, BitVec.extractLsb'_toNat, Nat.shiftRight_eq_div_pow]; omega

/-- The fields of R101 make up the word. -/
theorem word_of_fields (w : Word) :
    w.toNat = opField w * 2 ^ 28 + chField w * 2 ^ 16 + rsvField w * 2 ^ 4 + selField w := by
  rw [opField_eq, chField_eq, rsvField_eq, selField_eq]; have := w.isLt; omega

/-- CH holds 0..4095 (R103). -/
theorem chField_lt (w : Word) : chField w < 4096 := by rw [chField_eq]; omega

theorem packWord_toNat (op : BitVec 4) (ch : Nat) (sel : BitVec 4) :
    (packWord op ch sel).toNat = op.toNat * 2 ^ 28 + ch % 4096 * 2 ^ 16 + sel.toNat := by
  have h1 := sel.isLt
  have h2 := op.isLt
  simp only [packWord, BitVec.toNat_append, BitVec.toNat_ofNat, Nat.shiftLeft_eq]
  rw [← Nat.shiftLeft_eq, ← Nat.shiftLeft_eq, ← Nat.shiftLeft_eq]
  rw [← Nat.shiftLeft_add_eq_or_of_lt (by omega), ← Nat.shiftLeft_add_eq_or_of_lt (by omega),
    ← Nat.shiftLeft_add_eq_or_of_lt (by omega)]
  rw [show BitVec.toNat (0 : BitVec 12) = 0 from rfl]
  simp only [Nat.shiftLeft_eq]
  norm_num
  omega

theorem opField_packWord (op : BitVec 4) (ch : Nat) (sel : BitVec 4) : opField (packWord op ch sel) = op.toNat := by
  rw [opField_eq, packWord_toNat]; have := sel.isLt; omega

theorem chField_packWord (op : BitVec 4) (ch : Nat) (sel : BitVec 4) :
    chField (packWord op ch sel) = ch % 4096 := by
  rw [chField_eq, packWord_toNat]; have := sel.isLt; omega

theorem rsvField_packWord (op : BitVec 4) (ch : Nat) (sel : BitVec 4) : rsvField (packWord op ch sel) = 0 := by
  rw [rsvField_eq, packWord_toNat]; have := sel.isLt; omega

theorem selField_packWord (op : BitVec 4) (ch : Nat) (sel : BitVec 4) : selField (packWord op ch sel) = sel.toNat := by
  rw [selField_eq, packWord_toNat]; have := sel.isLt; omega

theorem opField_lt (w : Word) : opField w < 16 := by rw [opField_eq]; have := w.isLt; omega

theorem rsvField_lt (w : Word) : rsvField w < 4096 := by rw [rsvField_eq]; omega

theorem selField_lt (w : Word) : selField w < 16 := by rw [selField_eq]; omega

/-- What a legal word's fields are, from the instruction it decodes to. -/
theorem decode_legal_fields (c : Command) (i : Instr) (h : decode c = .legal i) :
    rsvField c.cmd = 0 ∧ opField c.cmd = i.op.toNat ∧ selField c.cmd = i.sel.toNat ∧
    chField c.cmd = i.channel?.getD 0 ∧ (∀ d, i.data? = some d → d = c.wdata) ∧ i.WellFormed := by
  unfold decode at h
  split at h
  · cases h
  · rename_i hr
    refine ⟨by omega, ?_⟩
    have hch := chField_lt c.cmd
    revert h
    generalize opField c.cmd = o, chField c.cmd = ch at *
    generalize selField c.cmd = sl
    intro h
    unfold decodeOp at h
    split at h <;>
      (try simp only [decodeGlobal, decodeChannel, decodeChannelRead, decodeGlobalRead] at h) <;>
      (repeat' split at h) <;> simp_all <;> (try subst h) <;>
      simp_all [Instr.op, Instr.sel, Instr.channel?, Instr.data?, Instr.WellFormed, Instr.wellFormed]

/-! ### The rows of R114's table -/

/-- A channel row's mask drops CH (R114). -/
theorem channelMask_toNat (w : Word) :
    (w &&& 0xF000FFFF).toNat = opField w * 2 ^ 28 + rsvField w * 2 ^ 4 + selField w := by
  have h : w &&& 0xF000FFFF = (w.extractLsb' 28 4 ++ (0 : BitVec 12) ++ w.extractLsb' 0 16 : BitVec (4 + 12 + 16)) := by
    apply BitVec.eq_of_getLsbD_eq (w := 32)
    intro i hi
    rw [BitVec.getLsbD_and, BitVec.getLsbD_append, BitVec.getLsbD_append]
    interval_cases i <;> simp
  rw [h, opField_eq, rsvField_eq, selField_eq]
  show BitVec.toNat (w.extractLsb' 28 4 ++ (0 : BitVec 12) ++ w.extractLsb' 0 16 : BitVec (4 + 12 + 16)) = _
  simp only [BitVec.toNat_append, BitVec.extractLsb'_toNat, Nat.shiftRight_eq_div_pow]
  have := w.isLt
  rw [← Nat.shiftLeft_add_eq_or_of_lt (by omega), ← Nat.shiftLeft_add_eq_or_of_lt (by simp)]
  rw [show BitVec.toNat (0 : BitVec 12) = 0 from rfl]
  simp only [Nat.shiftLeft_eq]
  omega

/-- A channel row covers the words whose OP, RSV and SEL make up its pattern, whatever CH is. -/
theorem OpcodeRow.covers_channel (r : OpcodeRow) (w : Word) (hm : r.mask = 0xF000FFFF) :
    r.covers w = true ↔ opField w * 2 ^ 28 + rsvField w * 2 ^ 4 + selField w = r.pattern.toNat := by
  rw [OpcodeRow.covers, beq_iff_eq, hm, ← channelMask_toNat, BitVec.toNat_inj]

/-- A global row covers its pattern alone. -/
theorem OpcodeRow.covers_global (r : OpcodeRow) (w : Word) (hm : r.mask = 0xFFFFFFFF) :
    r.covers w = true ↔
      opField w * 2 ^ 28 + chField w * 2 ^ 16 + rsvField w * 2 ^ 4 + selField w = r.pattern.toNat := by
  rw [OpcodeRow.covers, beq_iff_eq, hm, ← word_of_fields, BitVec.toNat_inj]
  rw [show w &&& 0xFFFFFFFF = w from BitVec.and_allOnes]

end Sys2Proof
end

