-- ==== Sys2Proof/Laws/Generators.lean ====
section
/-! SUPPORT. The generators' spec lemmas: the narrowing of a sample, and the bounds PULSE, SAW and the clamps keep. -/

namespace Sys2Proof.Machine

/-- A sample in the 16-bit range is held exactly. -/
theorem sample_toInt (y : Int) (h : -32768 ≤ y) (h' : y ≤ 32767) : (sample y).toInt = y := by
  simp only [sample, BitVec.toInt_ofInt]
  rw [Int.bmod_def]
  split <;> omega

theorem one_le_transitionWidth (inc : Word) : 1 ≤ transitionWidth inc := by simp [transitionWidth]

theorem transitionWidth_lt_turn (inc : Word) : transitionWidth inc < turn := by
  have := inc.isLt
  simp only [transitionWidth, turn]
  omega

/-- The clamp of R150 and R152 lies strictly inside one turn. -/
theorem clamp_inside (x m : Nat) (h1 : 1 ≤ m) (h2 : m < turn) :
    1 ≤ clamp x m (turn - m) ∧ clamp x m (turn - m) < turn := by
  simp only [clamp]; omega

/-- A floor division of a part of `2*FS` lies in `0..2*FS`. -/
theorem ramp_bounds (a b : Nat) (hb : 1 ≤ b) (h : a ≤ b) :
    0 ≤ (2 * fullScale * (a : Int)) / (b : Int) ∧ (2 * fullScale * (a : Int)) / (b : Int) ≤ 65534 := by
  have hb' : (0 : Int) < b := by exact_mod_cast hb
  have hab : (a : Int) ≤ b := by exact_mod_cast h
  have ha : (0 : Int) ≤ a := Int.natCast_nonneg a
  refine ⟨Int.ediv_nonneg (by simp only [fullScale]; omega) hb'.le, ?_⟩
  calc (2 * fullScale * (a : Int)) / b ≤ (65534 * b) / b := by
        apply Int.ediv_le_ediv hb'; simp only [fullScale]; omega
    _ = 65534 := Int.mul_ediv_cancel _ hb'.ne'

theorem pulse_bounds (p T m : Nat) (hm : 1 ≤ m) : -32767 ≤ pulse p T m ∧ pulse p T m ≤ 32767 := by
  unfold pulse
  split
  · have := ramp_bounds p m hm (by omega); simp only [fullScale] at *; omega
  · split
    · simp [fullScale]
    · split
      · have := ramp_bounds (p - T) m hm (by omega); simp only [fullScale] at *; omega
      · simp [fullScale]

theorem saw_bounds (p P : Nat) (hp : p < turn) (h1 : 1 ≤ P) (h2 : P < turn) :
    -32767 ≤ saw p P ∧ saw p P ≤ 32767 := by
  unfold saw
  split
  · have := ramp_bounds p P h1 (by omega); simp only [fullScale] at *; omega
  · have := ramp_bounds (p - P) (turn - P) (by omega) (by omega); simp only [fullScale] at *; omega

/-- A drawn value is the top half of the state, before it is read as signed (R155). -/
theorem draw_toNat (s : Word) : (draw s).toNat = s.toNat / 2 ^ 16 := by
  have := s.isLt
  simp [draw, BitVec.extractLsb'_toNat, Nat.shiftRight_eq_div_pow]; omega

/-- A half word read as signed. -/
theorem half_toInt (v : Half) :
    v.toInt = if v.toNat < 2 ^ 15 then (v.toNat : Int) else (v.toNat : Int) - 2 ^ 16 := by
  rw [BitVec.toInt_eq_toNat_cond]
  by_cases h : v.toNat < 2 ^ 15
  · rw [if_pos (by omega), if_pos h]
  · rw [if_neg (by omega), if_neg h]; norm_num

theorem half_range (v : Half) : -32768 ≤ v.toInt ∧ v.toInt ≤ 32767 := by
  have h1 := BitVec.le_toInt v
  have h2 := BitVec.toInt_lt (x := v)
  norm_num at h1 h2; omega

/-- Negation is exact but for -32768, which no entry of a legal table is (R147). -/
theorem half_neg_toInt (v : Half) (h : -32767 ≤ v.toInt) : (-v).toInt = -v.toInt := by
  rw [BitVec.toInt_neg, Int.bmod_def]
  have := half_range v
  norm_num
  split <;> omega

end Sys2Proof.Machine
end

