-- ==== Sys2Proof/Laws/State.lean ====
section
/-! SUPPORT. One lemma per field of the state per update, each true by definition, so that no proof unfolds a record
update. -/

namespace Sys2Proof.Machine

section Chans
variable (s : State) (c : Nat) (f : Channel → Channel) (g : Nat → Channel → Channel)

@[simp] theorem State.modifyChan_chans : (s.modifyChan c f).chans = s.chans.modify c f := rfl
@[simp] theorem State.modifyChan_status : (s.modifyChan c f).status = s.status := rfl
@[simp] theorem State.modifyChan_rdata : (s.modifyChan c f).rdata = s.rdata := rfl
@[simp] theorem State.modifyChan_build : (s.modifyChan c f).build = s.build := rfl
@[simp] theorem State.modifyChan_port : (s.modifyChan c f).port = s.port := rfl

@[simp] theorem State.mapChans_chans : (s.mapChans g).chans = s.chans.mapIdx g := rfl
@[simp] theorem State.mapChans_status : (s.mapChans g).status = s.status := rfl
@[simp] theorem State.mapChans_rdata : (s.mapChans g).rdata = s.rdata := rfl
@[simp] theorem State.mapChans_build : (s.mapChans g).build = s.build := rfl
@[simp] theorem State.mapChans_port : (s.mapChans g).port = s.port := rfl
end Chans

section Globals
variable (s : State) (v : Word) (code : ErrorCode)

@[simp] theorem State.writeRdata_chans : (s.writeRdata v).chans = s.chans := rfl
@[simp] theorem State.writeRdata_status : (s.writeRdata v).status = s.status := rfl
@[simp] theorem State.writeRdata_rdata : (s.writeRdata v).rdata = v := rfl
@[simp] theorem State.writeRdata_build : (s.writeRdata v).build = s.build := rfl
@[simp] theorem State.writeRdata_port : (s.writeRdata v).port = s.port := rfl

@[simp] theorem State.raiseError_chans : (s.raiseError code).chans = s.chans := rfl
@[simp] theorem State.raiseError_status : (s.raiseError code).status = s.status.record code := rfl
@[simp] theorem State.raiseError_rdata : (s.raiseError code).rdata = s.rdata := rfl
@[simp] theorem State.raiseError_build : (s.raiseError code).build = s.build := rfl
@[simp] theorem State.raiseError_port : (s.raiseError code).port = s.port := rfl

@[simp] theorem State.clearStatus_chans : s.clearStatus.chans = s.chans := rfl
@[simp] theorem State.clearStatus_status : s.clearStatus.status = .zero := rfl
@[simp] theorem State.clearStatus_rdata : s.clearStatus.rdata = s.rdata := rfl
@[simp] theorem State.clearStatus_build : s.clearStatus.build = s.build := rfl
@[simp] theorem State.clearStatus_port : s.clearStatus.port = s.port := rfl
end Globals

section Reset
variable (s : State) (n : Nat) (b : Build)

@[simp] theorem State.resetWith_chans :
    (State.resetWith n b).chans = (List.range n).map (Channel.resetAt b.noiseSeed) := rfl
@[simp] theorem State.resetWith_status : (State.resetWith n b).status = .zero := rfl
@[simp] theorem State.resetWith_rdata : (State.resetWith n b).rdata = 0 := rfl
@[simp] theorem State.resetWith_build : (State.resetWith n b).build = b := rfl
@[simp] theorem State.resetWith_port : (State.resetWith n b).port = .idle := rfl

@[simp] theorem State.resetRegisters_chans :
    s.resetRegisters.chans = (List.range s.nch).map (Channel.resetAt s.build.noiseSeed) := rfl
@[simp] theorem State.resetRegisters_status : s.resetRegisters.status = .zero := rfl
@[simp] theorem State.resetRegisters_rdata : s.resetRegisters.rdata = 0 := rfl
@[simp] theorem State.resetRegisters_build : s.resetRegisters.build = s.build := rfl
@[simp] theorem State.resetRegisters_port : s.resetRegisters.port = s.port := rfl
end Reset

section Port
variable (s : State)

@[simp] theorem State.passStep_chans : s.passStep.chans = s.chans := rfl
@[simp] theorem State.passStep_status : s.passStep.status = s.status := rfl
@[simp] theorem State.passStep_rdata : s.passStep.rdata = s.rdata := rfl
@[simp] theorem State.passStep_build : s.passStep.build = s.build := rfl
@[simp] theorem State.passStep_port :
    s.passStep.port = { commands := s.port.commands, rst := s.port.rst.tail } := rfl

@[simp] theorem State.acceptCommand_chans : s.acceptCommand.chans = s.chans := rfl
@[simp] theorem State.acceptCommand_status : s.acceptCommand.status = s.status := rfl
@[simp] theorem State.acceptCommand_rdata : s.acceptCommand.rdata = s.rdata := rfl
@[simp] theorem State.acceptCommand_build : s.acceptCommand.build = s.build := rfl
@[simp] theorem State.acceptCommand_port :
    s.acceptCommand.port = { commands := s.port.commands.tail, rst := s.port.rst.tail } := rfl
end Port

section Running
variable (ch : Channel)

@[simp] theorem Channel.clearRunning_phase : ch.clearRunning.phase = 0 := rfl
@[simp] theorem Channel.clearRunning_inc : ch.clearRunning.inc = ch.inc := rfl
@[simp] theorem Channel.clearRunning_wave : ch.clearRunning.wave = ch.wave := rfl
@[simp] theorem Channel.clearRunning_syncEn : ch.clearRunning.syncEn = ch.syncEn := rfl
@[simp] theorem Channel.clearRunning_pw : ch.clearRunning.pw = ch.pw := rfl
@[simp] theorem Channel.clearRunning_seed : ch.clearRunning.seed = ch.seed := rfl
@[simp] theorem Channel.clearRunning_syncph : ch.clearRunning.syncph = 0 := rfl
@[simp] theorem Channel.clearRunning_hold : ch.clearRunning.hold = 0 := rfl
@[simp] theorem Channel.clearRunning_out : ch.clearRunning.out = 0 := rfl
end Running

end Sys2Proof.Machine
end

