-- ==== Sys2Proof/Laws/Ops.lean ====
section
/-! SUPPORT. What each shared operation can do, said once: the contexts after an update, the outcomes of a channel
command, and the outcomes of performing a command and of a step. -/

namespace Sys2Proof.Machine

/-! ### Contexts -/

@[simp] theorem State.nch_modifyChan (s : State) (c : Nat) (f : Channel → Channel) :
    (s.modifyChan c f).nch = s.nch := by simp [State.nch]

@[simp] theorem State.nch_mapChans (s : State) (g : Nat → Channel → Channel) : (s.mapChans g).nch = s.nch := by
  simp [State.nch]

@[simp] theorem State.nch_resetRegisters (s : State) : s.resetRegisters.nch = s.nch := by simp [State.nch]

@[simp] theorem State.nch_resetWith (n : Nat) (b : Build) : (State.resetWith n b).nch = n := by simp [State.nch]

@[simp] theorem State.chan?_writeRdata (s : State) (v : Word) (k : Nat) : (s.writeRdata v).chan? k = s.chan? k := rfl
@[simp] theorem State.chan?_raiseError (s : State) (e : ErrorCode) (k : Nat) :
    (s.raiseError e).chan? k = s.chan? k := rfl
@[simp] theorem State.chan?_clearStatus (s : State) (k : Nat) : s.clearStatus.chan? k = s.chan? k := rfl
@[simp] theorem State.chan?_passStep (s : State) (k : Nat) : s.passStep.chan? k = s.chan? k := rfl
@[simp] theorem State.chan?_acceptCommand (s : State) (k : Nat) : s.acceptCommand.chan? k = s.chan? k := rfl

/-- A context exists exactly for the numbers below NCH (R81). -/
theorem State.chan?_eq_none_iff (s : State) (c : Nat) : s.chan? c = none ↔ s.nch ≤ c := by
  simp [State.chan?, State.nch]

theorem State.chan?_isSome_iff (s : State) (c : Nat) : (∃ ch, s.chan? c = some ch) ↔ c < s.nch := by
  rw [← Option.isSome_iff_exists]
  simp [State.chan?, State.nch]

/-- A write of `R[c]` changes `R[c]` by `f` and no other context. -/
theorem State.chan?_modifyChan (s : State) (c k : Nat) (f : Channel → Channel) :
    (s.modifyChan c f).chan? k = if c = k then (s.chan? k).map f else s.chan? k := by
  simp only [State.chan?, State.modifyChan_chans, List.getElem?_modify]
  split <;> simp_all

/-- Where `R[c]` holds `ch`, writing it by `f` is storing `f ch` in its place. -/
theorem State.modifyChan_eq_set (s : State) (c : Nat) (ch : Channel) (f : Channel → Channel) (h : s.chan? c = some ch) :
    s.modifyChan c f = { s with chans := s.chans.set c (f ch) } := by
  have hl : s.chans.modify c f = s.chans.set c (f ch) := by
    apply List.ext_getElem?
    intro k
    rw [List.getElem?_modify, List.getElem?_set]
    by_cases hk : c = k
    · subst hk
      obtain ⟨hlt, hget⟩ := List.getElem?_eq_some_iff.1 (show s.chans[c]? = some ch from h)
      simp [hlt, hget]
    · simp [hk]
  unfold State.modifyChan
  rw [hl]

@[simp] theorem State.chan?_mapChans (s : State) (g : Nat → Channel → Channel) (k : Nat) :
    (s.mapChans g).chan? k = (s.chan? k).map (g k) := by
  simp [State.chan?, List.getElem?_mapIdx]

/-- R57's context of each number. -/
theorem State.chan?_resetWith (n : Nat) (b : Build) (k : Nat) :
    (State.resetWith n b).chan? k = if k < n then some (Channel.resetAt b.noiseSeed k) else none := by
  simp only [State.chan?, State.resetWith_chans, List.getElem?_map]
  split
  · rename_i h; simp [h]
  · rename_i h; simp at h; simp [h]

theorem State.chan?_resetRegisters (s : State) (k : Nat) :
    s.resetRegisters.chan? k = if k < s.nch then some (Channel.resetAt s.build.noiseSeed k) else none :=
  State.chan?_resetWith s.nch s.build k

/-! ### STATUS -/

theorem Status.record_of_err (st : Status) (e : ErrorCode) (h : st.err = true) : st.record e = st := by
  simp [Status.record, h]

theorem Status.record_of_not_err (st : Status) (e : ErrorCode) (h : st.err = false) :
    st.record e = { err := true, ecode := e } := by simp [Status.record, h]

/-- Recording an error twice is recording it once (R285). -/
@[simp] theorem Status.record_record (st : Status) (e e' : ErrorCode) :
    (st.record e).record e' = st.record e := by
  cases h : st.err <;> simp [Status.record, h]

/-! ### Channel commands -/

/-- A channel command on an existing context runs its body on it. -/
theorem channelCommand_some (c : Nat) (s : State) (ch : Channel) (body : Channel → Host.Outcome State Fault Refusal)
    (h : s.chan? c = some ch) : channelCommand c s body = body ch := by simp [channelCommand, h]

/-- A channel command with `c >= NCH` records CH_RANGE and does nothing else (R200, R283). -/
theorem channelCommand_range (c : Nat) (s : State) (body : Channel → Host.Outcome State Fault Refusal)
    (h : s.nch ≤ c) : channelCommand c s body = .next (s.raiseError .chRange) := by
  simp [channelCommand, (s.chan?_eq_none_iff c).2 h]

/-- A channel write answers a next state: the write, or the range error. -/
theorem writeChannel_cases (c : Nat) (s : State) (f : Channel → Channel) :
    (c < s.nch ∧ writeChannel c s f = .next (s.modifyChan c f)) ∨
      (s.nch ≤ c ∧ writeChannel c s f = .next (s.raiseError .chRange)) := by
  by_cases h : s.nch ≤ c
  · exact .inr ⟨h, channelCommand_range c s _ h⟩
  · obtain ⟨ch, hc⟩ := (s.chan?_isSome_iff c).2 (by omega)
    exact .inl ⟨by omega, channelCommand_some c s ch _ hc⟩

/-- A channel read answers a next state: RDATA written, or the range error. -/
theorem readChannel_cases (c : Nat) (s : State) (value : Channel → Word) :
    (∃ ch, s.chan? c = some ch ∧ readChannel c s value = .next (s.writeRdata (value ch))) ∨
      (s.nch ≤ c ∧ readChannel c s value = .next (s.raiseError .chRange)) := by
  by_cases h : s.nch ≤ c
  · exact .inr ⟨h, channelCommand_range c s _ h⟩
  · obtain ⟨ch, hc⟩ := (s.chan?_isSome_iff c).2 (by omega)
    exact .inl ⟨ch, hc, channelCommand_some c s ch _ hc⟩

/-- WR_CTRL answers a next state: the write, BAD_VALUE, or the range error, which comes first (R202, R284). -/
theorem execWrCtrl_cases (c : Nat) (d : Word) (s : State) :
    (∃ w, c < s.nch ∧ waveOperand d = some w ∧
      execWrCtrl c d s = .next (s.modifyChan c fun ch => { ch with wave := w, syncEn := syncEnOperand c d })) ∨
    (c < s.nch ∧ waveOperand d = none ∧ execWrCtrl c d s = .next (s.raiseError .badValue)) ∨
    (s.nch ≤ c ∧ execWrCtrl c d s = .next (s.raiseError .chRange)) := by
  by_cases h : s.nch ≤ c
  · exact .inr (.inr ⟨h, channelCommand_range c s _ h⟩)
  · obtain ⟨ch, hc⟩ := (s.chan?_isSome_iff c).2 (by omega)
    cases hw : waveOperand d with
    | none => exact .inr (.inl ⟨by omega, rfl, by rw [execWrCtrl, channelCommand_some c s ch _ hc, hw]⟩)
    | some w => exact .inl ⟨w, by omega, rfl, by rw [execWrCtrl, channelCommand_some c s ch _ hc, hw]⟩

/-! ### Performing a command, and a step -/

theorem perform_legal (c : Command) (i : Instr) (s : State) (h : decode c = .legal i) : perform c s = exec i s := by
  simp [perform, h]

theorem perform_illegal (c : Command) (why : Illegal) (s : State) (h : decode c = .illegal why) :
    perform c s = .next (s.raiseError .illegalCmd) := by simp [perform, h]

/-- A step does one of three things: it takes the reset values, performs the command presented, or passes. -/
theorem step_cases (s : State) :
    (s.rstAsserted = true ∧ step s = .next s.passStep.resetRegisters) ∨
    (∃ c, s.rstAsserted = false ∧ s.presented = some c ∧ step s = perform c s.acceptCommand) ∨
    (s.rstAsserted = false ∧ s.presented = none ∧ step s = .next s.passStep) := by
  unfold step advance
  cases hr : s.rstAsserted with
  | true => simp
  | false => cases hp : s.presented <;> simp

/-! ### Operands -/

/-- A reserved WAVE code has no waveform (R202). -/
theorem waveOperand_none (d : Word) (h : 5 ≤ d.toNat % 8) : waveOperand d = none := by
  unfold waveOperand Wave.ofCode
  rw [show (d.extractLsb' 0 3).toNat = d.toNat % 8 by simp [BitVec.extractLsb'_toNat]]
  have h8 : d.toNat % 8 < 8 := Nat.mod_lt _ (by norm_num)
  generalize d.toNat % 8 = x at *
  interval_cases x <;> rfl

/-- The other codes name the waveform that has them (R37, R202). -/
theorem waveOperand_some (d : Word) (h : d.toNat % 8 < 5) :
    ∃ w, waveOperand d = some w ∧ w.code.toNat = d.toNat % 8 := by
  unfold waveOperand Wave.ofCode
  rw [show (d.extractLsb' 0 3).toNat = d.toNat % 8 by simp [BitVec.extractLsb'_toNat]]
  generalize d.toNat % 8 = x at *
  interval_cases x
  · exact ⟨.sine, rfl, rfl⟩
  · exact ⟨.pulse, rfl, rfl⟩
  · exact ⟨.saw, rfl, rfl⟩
  · exact ⟨.noise, rfl, rfl⟩
  · exact ⟨.random, rfl, rfl⟩

theorem writeChannel_some (c : Nat) (s : State) (ch : Channel) (f : Channel → Channel) (h : s.chan? c = some ch) :
    writeChannel c s f = .next { s with chans := s.chans.set c (f ch) } := by
  rw [writeChannel, channelCommand_some c s ch _ h, State.modifyChan_eq_set s c ch f h]

theorem readChannel_some (c : Nat) (s : State) (ch : Channel) (f : Channel → Word) (h : s.chan? c = some ch) :
    readChannel c s f = .next (s.writeRdata (f ch)) := channelCommand_some c s ch _ h

end Sys2Proof.Machine
end

