-- ==== Sys2Proof/Laws/PerInstr.lean ====
section
/-! SUPPORT. Per instruction: the word `encode` gives lies in the instruction's own row of R114's table
(30_encoding.md), `(CMD & mask) = match` (R111). -/

namespace Sys2Proof.Laws.EncodeRow

/-- The encoded word of `i` is covered by the row of the table that carries `i`'s mnemonic. -/
def Statement (i : Instr) : Prop :=
  i.WellFormed → ∃ r ∈ opcodeTable, r.mnemonic = i.mnemonic ∧ r.covers (encode i).cmd = true

/-- A channel command's word has the row's bits outside CH, whatever CH holds. -/
theorem packWord_masked (op : BitVec 4) (ch : Nat) (sel : BitVec 4) :
    packWord op ch sel &&& 0xF000FFFF = packWord op 0 sel := by
  show (op ++ BitVec.ofNat 12 ch ++ (0 : BitVec 12) ++ sel) &&& (0xF000FFFF : BitVec (4 + 12 + 12 + 4)) =
    op ++ BitVec.ofNat 12 0 ++ (0 : BitVec 12) ++ sel
  apply BitVec.eq_of_getLsbD_eq
  intro i hi
  rw [BitVec.getLsbD_and]
  simp only [BitVec.getLsbD_append]
  interval_cases i <;> simp

theorem covers_channel (name : String) (op : BitVec 4) (ch : Nat) (sel : BitVec 4) :
    (OpcodeRow.mk name (packWord op 0 sel) 0xF000FFFF).covers (packWord op ch sel) = true := by
  simp only [OpcodeRow.covers, beq_iff_eq]
  exact packWord_masked op ch sel

theorem nop : Statement .nop := fun _ => ⟨⟨"NOP", 0x00000000, 0xFFFFFFFF⟩, by decide⟩
theorem step : Statement .step := fun _ => ⟨⟨"STEP", 0x90000000, 0xFFFFFFFF⟩, by decide⟩
theorem allReset : Statement .allReset := fun _ => ⟨⟨"ALL_RESET", 0xA0000000, 0xFFFFFFFF⟩, by decide⟩
theorem rdStatus : Statement .rdStatus := fun _ => ⟨⟨"RD_STATUS", 0xB0000000, 0xFFFFFFFF⟩, by decide⟩
theorem rdId : Statement .rdId := fun _ => ⟨⟨"RD_ID", 0xB0000001, 0xFFFFFFFF⟩, by decide⟩
theorem rdConfig : Statement .rdConfig := fun _ => ⟨⟨"RD_CONFIG", 0xB0000002, 0xFFFFFFFF⟩, by decide⟩
theorem clrStatus : Statement .clrStatus := fun _ => ⟨⟨"CLR_STATUS", 0xC0000000, 0xFFFFFFFF⟩, by decide⟩

theorem wrInc (ch : Nat) (data : Word) : Statement (.wrInc ch data) :=
  fun _ => ⟨⟨"WR_INC", packWord 1 0 0, 0xF000FFFF⟩, by decide, rfl, covers_channel _ 1 ch 0⟩
theorem wrCtrl (ch : Nat) (data : Word) : Statement (.wrCtrl ch data) :=
  fun _ => ⟨⟨"WR_CTRL", packWord 2 0 0, 0xF000FFFF⟩, by decide, rfl, covers_channel _ 2 ch 0⟩
theorem wrPw (ch : Nat) (data : Word) : Statement (.wrPw ch data) :=
  fun _ => ⟨⟨"WR_PW", packWord 3 0 0, 0xF000FFFF⟩, by decide, rfl, covers_channel _ 3 ch 0⟩
theorem wrPhase (ch : Nat) (data : Word) : Statement (.wrPhase ch data) :=
  fun _ => ⟨⟨"WR_PHASE", packWord 4 0 0, 0xF000FFFF⟩, by decide, rfl, covers_channel _ 4 ch 0⟩
theorem wrSeed (ch : Nat) (data : Word) : Statement (.wrSeed ch data) :=
  fun _ => ⟨⟨"WR_SEED", packWord 5 0 0, 0xF000FFFF⟩, by decide, rfl, covers_channel _ 5 ch 0⟩
theorem wrSyncph (ch : Nat) (data : Word) : Statement (.wrSyncph ch data) :=
  fun _ => ⟨⟨"WR_SYNCPH", packWord 6 0 0, 0xF000FFFF⟩, by decide, rfl, covers_channel _ 6 ch 0⟩
theorem chReset (ch : Nat) : Statement (.chReset ch) :=
  fun _ => ⟨⟨"CH_RESET", packWord 7 0 0, 0xF000FFFF⟩, by decide, rfl, covers_channel _ 7 ch 0⟩
theorem rdPhase (ch : Nat) : Statement (.rdPhase ch) :=
  fun _ => ⟨⟨"RD_PHASE", packWord 8 0 0, 0xF000FFFF⟩, by decide, rfl, covers_channel _ 8 ch 0⟩
theorem rdInc (ch : Nat) : Statement (.rdInc ch) :=
  fun _ => ⟨⟨"RD_INC", packWord 8 0 1, 0xF000FFFF⟩, by decide, rfl, covers_channel _ 8 ch 1⟩
theorem rdCtrl (ch : Nat) : Statement (.rdCtrl ch) :=
  fun _ => ⟨⟨"RD_CTRL", packWord 8 0 2, 0xF000FFFF⟩, by decide, rfl, covers_channel _ 8 ch 2⟩
theorem rdPw (ch : Nat) : Statement (.rdPw ch) :=
  fun _ => ⟨⟨"RD_PW", packWord 8 0 3, 0xF000FFFF⟩, by decide, rfl, covers_channel _ 8 ch 3⟩
theorem rdSeed (ch : Nat) : Statement (.rdSeed ch) :=
  fun _ => ⟨⟨"RD_SEED", packWord 8 0 4, 0xF000FFFF⟩, by decide, rfl, covers_channel _ 8 ch 4⟩
theorem rdSyncph (ch : Nat) : Statement (.rdSyncph ch) :=
  fun _ => ⟨⟨"RD_SYNCPH", packWord 8 0 5, 0xF000FFFF⟩, by decide, rfl, covers_channel _ 8 ch 5⟩
theorem rdHold (ch : Nat) : Statement (.rdHold ch) :=
  fun _ => ⟨⟨"RD_HOLD", packWord 8 0 6, 0xF000FFFF⟩, by decide, rfl, covers_channel _ 8 ch 6⟩
theorem rdOut (ch : Nat) : Statement (.rdOut ch) :=
  fun _ => ⟨⟨"RD_OUT", packWord 8 0 7, 0xF000FFFF⟩, by decide, rfl, covers_channel _ 8 ch 7⟩

end Sys2Proof.Laws.EncodeRow
end

