-- ==== Sys2Proof/Laws/SampleStep.lean ====
section
/-! SUPPORT. What STEP does to one context, said once: which fields it keeps, where PHASE and SYNCPH go, and what each
waveform writes. -/

namespace Sys2Proof.Machine

/-- STEP answers the advanced state, always (R140). -/
theorem exec_step (s : State) : exec .step s = .next s.sampleStep := rfl

/-- Context `k` after STEP, from the snapshot (R140, R141). -/
theorem State.chan?_sampleStep (s : State) (k : Nat) :
    s.sampleStep.chan? k =
      (s.chan? k).map fun ch => stepChannel s.build.quarter (ch.syncEnAt k) (s.masterInc k) ch := by
  simp [State.sampleStep]

@[simp] theorem State.nch_sampleStep (s : State) : s.sampleStep.nch = s.nch := by simp [State.sampleStep]
@[simp] theorem State.sampleStep_status (s : State) : s.sampleStep.status = s.status := rfl
@[simp] theorem State.sampleStep_rdata (s : State) : s.sampleStep.rdata = s.rdata := rfl
@[simp] theorem State.sampleStep_build (s : State) : s.sampleStep.build = s.build := rfl
@[simp] theorem State.sampleStep_port (s : State) : s.sampleStep.port = s.port := rfl

theorem State.render_zero (s : State) : s.render 0 = s := rfl
theorem State.render_succ (n : Nat) (s : State) : s.render (n + 1) = s.sampleStep.render n := rfl

/-- STEPs in a row compose. -/
theorem State.render_add (m n : Nat) (s : State) : s.render (m + n) = (s.render m).render n := by
  induction m generalizing s with
  | zero => simp [State.render_zero]
  | succ m ih => rw [Nat.succ_add, State.render_succ, State.render_succ, ih]

theorem State.render_one (s : State) : s.render 1 = s.sampleStep := rfl

section Fields
variable (q : List Half) (syncOn : Bool) (minc : Word) (ch : Channel)

@[simp] theorem stepChannel_inc : (stepChannel q syncOn minc ch).inc = ch.inc := by
  unfold stepChannel; cases ch.wave <;> rfl

@[simp] theorem stepChannel_wave : (stepChannel q syncOn minc ch).wave = ch.wave := by
  unfold stepChannel; cases h : ch.wave <;> rfl

@[simp] theorem stepChannel_syncEn : (stepChannel q syncOn minc ch).syncEn = ch.syncEn := by
  unfold stepChannel; cases ch.wave <;> rfl

@[simp] theorem stepChannel_pw : (stepChannel q syncOn minc ch).pw = ch.pw := by
  unfold stepChannel; cases ch.wave <;> rfl

theorem stepChannel_syncph : (stepChannel q syncOn minc ch).syncph = (syncAdvance syncOn minc ch.syncph).1 := by
  unfold stepChannel; cases ch.wave <;> rfl

theorem stepChannel_phase :
    (stepChannel q syncOn minc ch).phase =
      (phaseAdvance ch.phase ch.inc (syncAdvance syncOn minc ch.syncph).2).1 := by
  unfold stepChannel; cases ch.wave <;> rfl

/-- SEED is written in NOISE and RANDOM mode only (R40). -/
theorem stepChannel_seed_kept (h : ch.wave ≠ .noise) (h' : ch.wave ≠ .random) :
    (stepChannel q syncOn minc ch).seed = ch.seed := by
  unfold stepChannel; cases hw : ch.wave <;> simp_all

/-- HOLD is written in RANDOM mode only (R42). -/
theorem stepChannel_hold_kept (h : ch.wave ≠ .random) : (stepChannel q syncOn minc ch).hold = ch.hold := by
  unfold stepChannel; cases hw : ch.wave <;> simp_all

theorem stepChannel_sine (h : ch.wave = .sine) :
    (stepChannel q syncOn minc ch).out = sine q (stepChannel q syncOn minc ch).phase := by
  unfold stepChannel; simp [h]

theorem stepChannel_pulse (h : ch.wave = .pulse) :
    (stepChannel q syncOn minc ch).out =
      sample (pulse (stepChannel q syncOn minc ch).phase.toNat (pulseThreshold ch.pw (transitionWidth ch.inc))
        (transitionWidth ch.inc)) := by
  unfold stepChannel; simp [h]

theorem stepChannel_saw (h : ch.wave = .saw) :
    (stepChannel q syncOn minc ch).out =
      sample (saw (stepChannel q syncOn minc ch).phase.toNat (sawPeak ch.pw (transitionWidth ch.inc))) := by
  unfold stepChannel; simp [h]

theorem stepChannel_noise (h : ch.wave = .noise) :
    (stepChannel q syncOn minc ch).out = draw (lcg ch.seed) ∧ (stepChannel q syncOn minc ch).seed = lcg ch.seed := by
  unfold stepChannel; simp [h, noise]

/-- The new cycle of a STEP (R142). -/
def newCycle (syncOn : Bool) (minc : Word) (ch : Channel) : Bool :=
  (phaseAdvance ch.phase ch.inc (syncAdvance syncOn minc ch.syncph).2).2

theorem stepChannel_random_draw (h : ch.wave = .random) (hn : newCycle syncOn minc ch = true) :
    (stepChannel q syncOn minc ch).out = draw (lcg ch.seed) ∧ (stepChannel q syncOn minc ch).seed = lcg ch.seed ∧
      (stepChannel q syncOn minc ch).hold = draw (lcg ch.seed) := by
  unfold newCycle at hn; unfold stepChannel; simp [h, sampleAndHold, hn]

theorem stepChannel_random_hold (h : ch.wave = .random) (hn : newCycle syncOn minc ch = false) :
    (stepChannel q syncOn minc ch).out = ch.hold ∧ (stepChannel q syncOn minc ch).seed = ch.seed ∧
      (stepChannel q syncOn minc ch).hold = ch.hold := by
  unfold newCycle at hn; unfold stepChannel; simp [h, sampleAndHold, hn]

end Fields

/-! ### The accumulators -/

theorem syncAdvance_off (minc syncph : Word) : syncAdvance false minc syncph = (syncph, false) := rfl

theorem syncAdvance_on_fst (minc syncph : Word) : (syncAdvance true minc syncph).1 = syncph + minc := by
  apply BitVec.eq_of_toNat_eq; simp [syncAdvance, BitVec.toNat_add]

theorem syncAdvance_on_snd (minc syncph : Word) :
    (syncAdvance true minc syncph).2 = decide (turn ≤ syncph.toNat + minc.toNat) := rfl

theorem phaseAdvance_off_fst (phase inc : Word) : (phaseAdvance phase inc false).1 = phase + inc := by
  apply BitVec.eq_of_toNat_eq; simp [phaseAdvance, BitVec.toNat_add]

theorem phaseAdvance_sync_fst (phase inc : Word) : (phaseAdvance phase inc true).1 = 0 := rfl

theorem phaseAdvance_snd (phase inc : Word) (w : Bool) :
    (phaseAdvance phase inc w).2 = (decide (turn ≤ phase.toNat + inc.toNat) || w) := rfl

/-- INC of the master, where the master exists. -/
theorem State.masterInc_of (s : State) (c : Nat) (master : Channel) (h : s.chan? (c - 1) = some master) :
    s.masterInc c = master.inc := by simp [State.masterInc, h]

/-! ### Following one context -/

/-- One more STEP after `n`. -/
theorem State.render_succ_last (s : State) (n : Nat) : s.render (n + 1) = (s.render n).sampleStep := by
  rw [State.render_add, State.render_one]

@[simp] theorem State.nch_render (s : State) (n : Nat) : (s.render n).nch = s.nch := by
  induction n with
  | zero => rfl
  | succ n ih => rw [State.render_succ_last, State.nch_sampleStep, ih]

@[simp] theorem State.render_build (s : State) (n : Nat) : (s.render n).build = s.build := by
  induction n with
  | zero => rfl
  | succ n ih => rw [State.render_succ_last, State.sampleStep_build, ih]

/-- Context `c` after `n` STEPs (a placeholder where `c` names no context). -/
def State.track (s : State) (c n : Nat) : Channel := ((s.render n).chan? c).getD (Channel.resetAt 0 0)

theorem State.chan?_render (s : State) (c : Nat) (hc : c < s.nch) (n : Nat) :
    (s.render n).chan? c = some (s.track c n) := by
  obtain ⟨ch, h⟩ := ((s.render n).chan?_isSome_iff c).2 (by simpa using hc)
  rw [State.track, h]; rfl

theorem State.track_zero (s : State) (c : Nat) (ch : Channel) (h : s.chan? c = some ch) : s.track c 0 = ch := by
  rw [State.track, State.render_zero, h]; rfl

/-- Each STEP makes of the followed context what `stepChannel` makes of it. -/
theorem State.track_succ (s : State) (c : Nat) (hc : c < s.nch) (n : Nat) :
    s.track c (n + 1) = stepChannel s.build.quarter ((s.track c n).syncEnAt c) ((s.render n).masterInc c) (s.track c n) := by
  have h := (s.render n).chan?_sampleStep c
  rw [← State.render_succ_last, s.chan?_render c hc n, s.chan?_render c hc (n + 1), State.render_build] at h
  exact Option.some.inj h

/-- The settings of a context are the same after any number of STEPs (R35, R37 to R39). -/
theorem State.track_settings (s : State) (c : Nat) (ch : Channel) (h : s.chan? c = some ch) (n : Nat) :
    (s.track c n).inc = ch.inc ∧ (s.track c n).wave = ch.wave ∧ (s.track c n).pw = ch.pw ∧
      (s.track c n).syncEn = ch.syncEn := by
  induction n with
  | zero => rw [s.track_zero c ch h]; simp
  | succ n ih =>
    rw [s.track_succ c ((s.chan?_isSome_iff c).1 ⟨ch, h⟩)]
    simpa using ih

end Sys2Proof.Machine
end

