-- ==== Sys2Proof/Tests/Slice0.lean ====
section
/-! SUPPORT. The model's own tests: expected results are the spec's (95_test_vectors.md, cited by vector, or the rule cited),
worked out by hand from it. Then, for every statement with hypotheses, a witness that meets them. -/

namespace Sys2Proof.Tests

open Sys2Proof.Machine

/-! ### Helpers -/

/-- A block of one voice after reset (V-RD-5's `NCH = 2`). -/
def two : State := State.resetWith 2 Build.default

/-- Context `c` of the reset state. -/
def chan (c : Nat) : Channel := Channel.resetAt 1 c

/-- A block with these contexts. -/
def block (chans : List Channel) : State := { two with chans := chans }

/-- The next state of one command. -/
def after (i : Instr) (s : State) : Option State :=
  match exec i s with
  | .next t    => some t
  | .fault _   => none
  | .refused _ => none

/-- A register of context `c` after one command. -/
def reg {α : Type} (c : Nat) (f : Channel → α) (i : Instr) (s : State) : Option α :=
  (after i s).bind fun t => (t.chan? c).map f

/-- OUT of context `c` after one command, as a number. -/
def out (c : Nat) (i : Instr) (s : State) : Option Int := reg c (fun ch => ch.out.toInt) i s

/-- RDATA and STATUS after one command, as words. -/
def rdata (i : Instr) (s : State) : Option Word := (after i s).map fun t => t.rdata
def status (i : Instr) (s : State) : Option Word := (after i s).map fun t => t.status.word

/-- STATUS after one command word from `s`. -/
def wordStatus (w d : Word) (s : State) : Option Word :=
  match perform ⟨w, d⟩ s with
  | .next t    => some t.status.word
  | .fault _   => none
  | .refused _ => none

/-! ### Well-formedness: a channel number past the CH field is refused in every form -/

theorem test_wellFormed_chData :
    Instr.wellFormed (.wrInc 4096 0) = false ∧ Instr.wellFormed (.wrCtrl 4096 0) = false ∧
    Instr.wellFormed (.wrPw 4096 0) = false ∧ Instr.wellFormed (.wrPhase 4096 0) = false ∧
    Instr.wellFormed (.wrSeed 4096 0) = false ∧ Instr.wellFormed (.wrSyncph 4096 0) = false := by decide

theorem test_wellFormed_ch :
    Instr.wellFormed (.chReset 4096) = false ∧ Instr.wellFormed (.rdPhase 4096) = false ∧
    Instr.wellFormed (.rdInc 4096) = false ∧ Instr.wellFormed (.rdCtrl 4096) = false ∧
    Instr.wellFormed (.rdPw 4096) = false ∧ Instr.wellFormed (.rdSeed 4096) = false ∧
    Instr.wellFormed (.rdSyncph 4096) = false ∧ Instr.wellFormed (.rdHold 4096) = false ∧
    Instr.wellFormed (.rdOut 4096) = false := by decide

theorem test_wellFormed_accepts : Instr.wellFormed (.rdOut 4095) = true ∧ Instr.wellFormed .step = true := by decide

/-! ### Decoding: one word per constructor, its fields OP CH RSV SEL written out from R101, R102, R106, R107 -/

theorem test_decode_nop : decode ⟨0b0000_000000000000_000000000000_0000, 9⟩ = .legal .nop := by decide
theorem test_decode_wrInc : decode ⟨0b0001_000011111111_000000000000_0000, 5⟩ = .legal (.wrInc 255 5) := by decide
theorem test_decode_wrCtrl : decode ⟨0b0010_000000000101_000000000000_0000, 4⟩ = .legal (.wrCtrl 5 4) := by decide
theorem test_decode_wrPw : decode ⟨0b0011_100000000000_000000000000_0000, 1⟩ = .legal (.wrPw 2048 1) := by decide
theorem test_decode_wrPhase : decode ⟨0b0100_000000000001_000000000000_0000, 2⟩ = .legal (.wrPhase 1 2) := by decide
theorem test_decode_wrSeed : decode ⟨0b0101_000000000110_000000000000_0000, 7⟩ = .legal (.wrSeed 6 7) := by decide
theorem test_decode_wrSyncph : decode ⟨0b0110_000000000011_000000000000_0000, 8⟩ = .legal (.wrSyncph 3 8) := by decide
theorem test_decode_chReset : decode ⟨0b0111_000011111111_000000000000_0000, 3⟩ = .legal (.chReset 255) := by decide
theorem test_decode_rdPhase : decode ⟨0b1000_000000000000_000000000000_0000, 0⟩ = .legal (.rdPhase 0) := by decide
theorem test_decode_rdInc : decode ⟨0b1000_000000000010_000000000000_0001, 0⟩ = .legal (.rdInc 2) := by decide
theorem test_decode_rdCtrl : decode ⟨0b1000_000000000101_000000000000_0010, 0⟩ = .legal (.rdCtrl 5) := by decide
theorem test_decode_rdPw : decode ⟨0b1000_111111111111_000000000000_0011, 0⟩ = .legal (.rdPw 4095) := by decide
theorem test_decode_rdSeed : decode ⟨0b1000_000000000110_000000000000_0100, 0⟩ = .legal (.rdSeed 6) := by decide
theorem test_decode_rdSyncph : decode ⟨0b1000_000000000001_000000000000_0101, 0⟩ = .legal (.rdSyncph 1) := by decide
theorem test_decode_rdHold : decode ⟨0b1000_000000000100_000000000000_0110, 0⟩ = .legal (.rdHold 4) := by decide
theorem test_decode_rdOut : decode ⟨0b1000_000100101100_000000000000_0111, 0⟩ = .legal (.rdOut 300) := by decide
theorem test_decode_step : decode ⟨0b1001_000000000000_000000000000_0000, 1⟩ = .legal .step := by decide
theorem test_decode_allReset : decode ⟨0b1010_000000000000_000000000000_0000, 0⟩ = .legal .allReset := by decide
theorem test_decode_rdStatus : decode ⟨0b1011_000000000000_000000000000_0000, 0⟩ = .legal .rdStatus := by decide
theorem test_decode_rdId : decode ⟨0b1011_000000000000_000000000000_0001, 0⟩ = .legal .rdId := by decide
theorem test_decode_rdConfig : decode ⟨0b1011_000000000000_000000000000_0010, 0⟩ = .legal .rdConfig := by decide
theorem test_decode_clrStatus : decode ⟨0b1100_000000000000_000000000000_0000, 0⟩ = .legal .clrStatus := by decide

/-- R112, one word for each ground; V-ENC-2, V-ENC-3, V-ENC-6, V-ENC-7, V-ENC-8, V-ENC-10. -/
theorem test_decode_illegal :
    decode ⟨0x10000010, 0⟩ = .illegal .reservedBits ∧ decode ⟨0x1000FFF0, 0⟩ = .illegal .reservedBits ∧
    decode ⟨0x00010000, 0⟩ = .illegal .globalChannel ∧ decode ⟨0x90010000, 0⟩ = .illegal .globalChannel ∧
    decode ⟨0xB8000000, 0⟩ = .illegal .globalChannel ∧ decode ⟨0x00000001, 0⟩ = .illegal .selector ∧
    decode ⟨0x10000001, 0⟩ = .illegal .selector ∧ decode ⟨0x9000000F, 0⟩ = .illegal .selector ∧
    decode ⟨0x80000008, 0⟩ = .illegal .channelReadSelector ∧ decode ⟨0x8000000F, 0⟩ = .illegal .channelReadSelector ∧
    decode ⟨0xB0000003, 0⟩ = .illegal .globalReadSelector := by decide

/-- V-ENC-11. -/
theorem test_decode_unknownOp :
    decode ⟨0xD0000000, 0⟩ = .illegal .unknownOp ∧ decode ⟨0xE0000000, 0⟩ = .illegal .unknownOp ∧
    decode ⟨0xF0000000, 0⟩ = .illegal .unknownOp ∧ decode ⟨0xE1234567, 0⟩ = .illegal .reservedBits ∧
    decode ⟨0xFFFFFFFF, 0⟩ = .illegal .reservedBits := by decide

/-- Words of P1 to P4's listings (95_test_vectors.md section 3). -/
theorem test_encode_programs :
    encode (.wrInc 1 0x40000000) = ⟨0x10010000, 0x40000000⟩ ∧ encode (.wrCtrl 3 0xA) = ⟨0x20030000, 0xA⟩ ∧
    encode (.wrSeed 6 7) = ⟨0x50060000, 7⟩ ∧ encode (.rdCtrl 5) = ⟨0x80050002, 0⟩ ∧
    encode (.rdOut 300) = ⟨0x812C0007, 0⟩ ∧ encode .allReset = ⟨0xA0000000, 0⟩ := by decide

/-- R114: the table has a row for each of the 22 commands, under its mnemonic. -/
theorem test_opcodeTable_mnemonics : opcodeTable.map (fun r => r.mnemonic) =
    [Instr.nop, .wrInc 0 0, .wrCtrl 0 0, .wrPw 0 0, .wrPhase 0 0, .wrSeed 0 0, .wrSyncph 0 0, .chReset 0, .rdPhase 0,
     .rdInc 0, .rdCtrl 0, .rdPw 0, .rdSeed 0, .rdSyncph 0, .rdHold 0, .rdOut 0, .step, .allReset, .rdStatus, .rdId,
     .rdConfig, .clrStatus].map Instr.mnemonic := by decide

/-- The word as spec/opcode_table.json numbers it: CMD alone, and CMD with WDATA above it. -/
theorem test_decodeTableWord :
    decodeTableWord 32 0x80060004 = some (.rdSeed 6) ∧ decodeTableWord 32 0x20050000 = some (.wrCtrl 5 0) ∧
    decodeTableWord 64 0x0000000420050000 = some (.wrCtrl 5 4) ∧ decodeTableWord 32 0xD0000000 = none := by decide

/-- R82: byte 0 carries bits 7..0. -/
theorem test_wordToBytes : wordToBytes 0x4F534331 = [0x31, 0x43, 0x53, 0x4F] ∧
    wordOfBytes 0x31 0x43 0x53 0x4F = 0x4F534331 := by decide

/-- Log 11: CMD's four bytes, then WDATA's. -/
theorem test_commandOfBytes :
    commandOfBytes [0x00, 0x00, 0x05, 0x20, 0x04, 0x00, 0x00, 0x00, 0xAA] = some (⟨0x20050000, 4⟩, [0xAA]) ∧
    commandToBytes ⟨0x20050000, 4⟩ = [0x00, 0x00, 0x05, 0x20, 0x04, 0x00, 0x00, 0x00] ∧
    commandOfBytes [0x00, 0x00, 0x05, 0x20] = none := by decide

/-! ### The sine table and the generators (sections 2.3 to 2.6) -/

/-- R146's checksum of the first quarter, and its length. -/
theorem test_quarter_checksum :
    sineQuarter.length = 257 ∧ (sineQuarter.map (fun v => v.toNat)).sum = 5356550 := by decide +kernel

/-- V-SIN-1 to V-SIN-11. -/
theorem test_sine_vectors :
    ([0x00000000, 0x003FFFFF, 0x00400000, 0x04000000, 0x20000000, 0x40000000, 0x60000000, 0x80000000, 0xA0000000,
      0xC0000000, 0xFFFFFFFF] : List Word).map (fun p => (sine sineQuarter p).toInt) =
    [0, 0, 201, 3212, 23170, 32767, 23170, 0, -23170, -32767, -201] := by decide +kernel

/-- PULSE's value as the table of 2.4 gives it: from the phase, INC and PW. -/
def pulseAt (v : Nat × Word × Half) : Int :=
  pulse v.1 (pulseThreshold v.2.2 (transitionWidth v.2.1)) (transitionWidth v.2.1)

/-- V-PUL-1 to V-PUL-10. -/
theorem test_pulse_half :
    ([0, 0x02000000, 0x03FFFFFF, 0x04000000, 0x7FFFFFFF, 0x80000000, 0x82000000, 0x83FFFFFF, 0x84000000,
      0xFFFFFFFF] : List Nat).map (fun p => pulseAt (p, 0x04000000, 0x8000)) =
    [-32767, 0, 32766, 32767, 32767, 32767, 0, -32766, -32767, -32767] := by decide +kernel

/-- V-PUL-11 to V-PUL-26. -/
theorem test_pulse_edges :
    ([(0, 0, 0x8000), (0x7FFFFFFF, 0, 0x8000), (0x80000000, 0, 0x8000), (0, 0x80000000, 0x8000),
      (0x40000000, 0x80000000, 0x8000), (0x80000000, 0x80000000, 0x8000), (0xC0000000, 0x80000000, 0x8000),
      (0, 0x04000000, 0), (0x04000000, 0x04000000, 0), (0x06000000, 0x04000000, 0), (0x08000000, 0x04000000, 0),
      (0x10000000, 0x04000000, 0x1000), (0xFBFFFFFF, 0x04000000, 0xFFFF), (0xFC000000, 0x04000000, 0xFFFF),
      (0xFE000000, 0x04000000, 0xFFFF), (0xFFFF0000, 0x04000000, 0xFFFF)] : List (Nat × Word × Half)).map pulseAt =
    [-32767, 32767, 32767, -32767, 0, 32767, 0, -32767, 32767, 0, -32767, 32767, 32767, 32767, 0, -32703] := by
  decide +kernel

/-- SAW's value as the table of 2.5 gives it. -/
def sawAt (v : Nat × Word × Half) : Int := saw v.1 (sawPeak v.2.2 (transitionWidth v.2.1))

/-- V-SAW-1 to V-SAW-14. -/
theorem test_saw_rising :
    ([(0, 0x04000000, 0x8000), (0x04000000, 0x04000000, 0x8000), (0x40000000, 0x04000000, 0x8000),
      (0x7FFFFFFF, 0x04000000, 0x8000), (0x80000000, 0x04000000, 0x8000), (0xC0000000, 0x04000000, 0x8000),
      (0xFFFFFFFF, 0x04000000, 0x8000), (0x80000000, 0x00010000, 0xFFFF), (0xFFFF0000, 0x00010000, 0xFFFF),
      (0xFFFF8000, 0x00010000, 0xFFFF), (0xFFFFFFFF, 0x00010000, 0xFFFF), (0xFC000000, 0x04000000, 0xFFFF),
      (0xFE000000, 0x04000000, 0xFFFF), (0xFFFF0000, 0x04000000, 0xFFFF)] : List (Nat × Word × Half)).map sawAt =
    [-32767, -30720, 0, 32766, 32767, 0, -32766, 0, 32767, 0, -32766, 32767, 0, -32703] := by decide +kernel

/-- V-SAW-15 to V-SAW-25. -/
theorem test_saw_falling :
    ([(0, 0x04000000, 0), (0x02000000, 0x04000000, 0), (0x04000000, 0x04000000, 0), (0x80000000, 0x04000000, 0),
      (0, 0, 0), (1, 0, 0), (0x80000000, 0, 0), (0xFFFFFFFF, 0, 0), (0x40000000, 0x80000000, 0x1234),
      (0x80000000, 0x80000000, 0x1234), (0xC0000000, 0x80000000, 0x1234)] : List (Nat × Word × Half)).map sawAt =
    [-32767, 0, 32767, 521, -32767, 32767, 1, -32766, 0, 32767, 0] := by decide +kernel

/-- V-NOI-1 to V-NOI-13: the new SEED. -/
theorem test_noise_seeds :
    ([0x00000001, 0x3C88596C, 0x5E8885DB, 0x8116017E, 0xB4733AC5, 0x00000000, 0x3C6EF35F, 0x47502932, 0x00000002,
      0x00000003, 0xFFFFFFFF, 0x12345678, 0xA5D60FE5] : List Word).map lcg =
    [0x3C88596C, 0x5E8885DB, 0x8116017E, 0xB4733AC5, 0x0CF06D60, 0x3C6EF35F, 0x47502932, 0xD1CCF6E9, 0x3CA1BF79,
     0x3CBB2586, 0x3C558D52, 0x75432777, 0x80000000] := by decide +kernel

/-- V-NOI-1 to V-NOI-13: the sample. -/
theorem test_noise_outs :
    ([0x00000001, 0x3C88596C, 0x5E8885DB, 0x8116017E, 0xB4733AC5, 0x00000000, 0x3C6EF35F, 0x47502932, 0x00000002,
      0x00000003, 0xFFFFFFFF, 0x12345678, 0xA5D60FE5] : List Word).map (fun s => (noise s).1.toInt) =
    [15496, 24200, -32490, -19341, 3312, 15470, 18256, -11828, 15521, 15547, 15445, 30019, -32768] := by
  decide +kernel

/-! ### STEP (sections 2.2 to 2.8) -/

/-- V-PH-1: the other context is silent. -/
theorem test_step_sine :
    reg 0 (fun ch => (ch.phase, ch.out.toInt)) .step (block [{ chan 0 with inc := 0x04000000 }, chan 1]) =
      some (0x04000000, 3212) ∧
    out 1 .step (block [{ chan 0 with inc := 0x04000000 }, chan 1]) = some 0 := by decide +kernel

/-- V-PH-3: the carry out of PHASE is dropped. -/
theorem test_step_carry :
    reg 0 (fun ch => (ch.phase, ch.out.toInt)) .step
      (block [{ chan 0 with inc := 0x80000000, phase := 0xC0000000 }, chan 1]) = some (0x40000000, 32767) := by
  decide +kernel

/-- Section 2.4, through STEP: V-PUL-7. -/
theorem test_step_pulse :
    reg 0 (fun ch => (ch.phase, ch.out.toInt)) .step
      (block [{ chan 0 with wave := .pulse, inc := 0x04000000, phase := 0x7E000000 }, chan 1]) =
      some (0x82000000, 0) := by decide +kernel

/-- Section 2.5, through STEP: V-SAW-2. -/
theorem test_step_saw :
    out 0 .step (block [{ chan 0 with wave := .saw, inc := 0x04000000 }, chan 1]) = some (-30720) := by decide +kernel

/-- Section 2.6, through STEP: V-NOI-1. -/
theorem test_step_noise :
    reg 0 (fun ch => (ch.seed, ch.out.toInt, ch.hold.toInt)) .step (block [{ chan 0 with wave := .noise }, chan 1]) =
      some (0x3C88596C, 15496, 0) := by decide +kernel

/-- V-RND-1: its second STEP carries and draws; its third holds. -/
theorem test_step_random :
    reg 0 (fun ch => (ch.seed, ch.out.toInt, ch.hold.toInt)) .step
      (block [{ chan 0 with wave := .random, inc := 0x80000000, phase := 0x80000000 }, chan 1]) =
      some (0x3C88596C, 15496, 15496) ∧
    reg 0 (fun ch => (ch.seed, ch.out.toInt)) .step
      (block [{ chan 0 with wave := .random, inc := 0x80000000, seed := 0x3C88596C, hold := 15496 }, chan 1]) =
      some (0x3C88596C, 15496) := by decide +kernel

/-- V-RND-3: its second STEP, a new cycle by the sync wrap alone. -/
theorem test_step_random_sync :
    reg 1 (fun ch => (ch.seed, ch.out.toInt, ch.hold.toInt, ch.syncph)) .step
      (block [{ chan 0 with inc := 0x80000000, phase := 0x80000000 },
        { chan 1 with wave := .random, syncEn := true, syncph := 0x80000000 }]) =
      some (0x3CA1BF79, 15521, 15521, 0) := by decide +kernel

/-- V-SYN-1 and V-SYN-2. -/
theorem test_step_sync :
    reg 1 (fun ch => ch.syncph) .step (block [{ chan 0 with inc := 0x40000000 }, { chan 1 with syncEn := true }]) =
      some 0x40000000 ∧
    reg 1 (fun ch => (ch.phase, ch.syncph, ch.out.toInt)) .step
      (block [{ chan 0 with inc := 1 },
        { chan 1 with inc := 0x10000000, phase := 0x12345678, syncEn := true, syncph := 0xFFFFFFFF }]) =
      some (0, 0, 0) := by decide +kernel

/-- V-SYN-3: SYNCPH is frozen while sync is off. -/
theorem test_step_sync_off :
    reg 1 (fun ch => ch.syncph) .step (block [{ chan 0 with inc := 0x40000000 }, { chan 1 with syncph := 0x40000000 }]) =
      some 0x40000000 := by decide +kernel

/-- P2, STEP 8: the wrap of SYNCPH restarts the SAW slave at phase 0 in the same STEP. -/
theorem test_step_sync_saw :
    reg 1 (fun ch => (ch.phase, ch.syncph, ch.out.toInt)) .step
      (block [{ chan 0 with inc := 0x20000000, phase := 0xE0000000 },
        { chan 1 with wave := .saw, syncEn := true, inc := 0x30000000, phase := 0x50000000, syncph := 0xE0000000 }]) =
      some (0, 0, -32767) := by decide +kernel

/-! ### Writes (section 2.9) and resets (section 2.12) -/

/-- V-WR-1, V-WR-2, V-PH-6. -/
theorem test_wrInc :
    reg 0 (fun ch => ch.inc) (.wrInc 0 0x80000001) two = some 0x80000000 ∧
    reg 0 (fun ch => ch.inc) (.wrInc 0 0x7FFFFFFF) two = some 0x7FFFFFFF ∧
    reg 0 (fun ch => ch.inc) (.wrInc 0 0xFFFFFFFF) two = some 0x80000000 := by decide

/-- V-WR-3, V-WR-4: bit 3 is dropped on an even channel, the bits above it everywhere. -/
theorem test_wrCtrl :
    reg 0 (fun ch => (ch.wave, ch.syncEn)) (.wrCtrl 0 0x0000000C) two = some (.random, false) ∧
    reg 1 (fun ch => (ch.wave, ch.syncEn)) (.wrCtrl 1 0xFFFFFFFC) two = some (.random, true) := by decide

/-- V-WR-7: a reserved WAVE code stores nothing, though bit 3 is good. -/
theorem test_wrCtrl_bad :
    reg 1 (fun ch => (ch.wave, ch.syncEn)) (.wrCtrl 1 0xD) two = some (.sine, false) ∧
    status (.wrCtrl 1 5) two = some 0x00000031 := by decide

/-- V-WR-5. -/
theorem test_wrPw : reg 0 (fun ch => ch.pw) (.wrPw 0 0xABCD1234) two = some 0x1234 := by decide

/-- R204: PHASE takes the word, and OUT stays. -/
theorem test_wrPhase : reg 0 (fun ch => (ch.phase, ch.out)) (.wrPhase 0 0x40000000) two = some (0x40000000, 0) := by
  decide

/-- V-WR-6's write. -/
theorem test_wrSeed : reg 0 (fun ch => ch.seed) (.wrSeed 0 0) two = some 0 := by decide

/-- R206: on an even channel too. -/
theorem test_wrSyncph : reg 0 (fun ch => ch.syncph) (.wrSyncph 0 0xFFFFFFFF) two = some 0xFFFFFFFF := by decide

/-- A context whose every register differs from its reset value. -/
def busy : Channel :=
  { phase := 0x2000, inc := 0x1000, wave := .noise, syncEn := true, pw := 0x1234, seed := 0x3D0757AD,
    syncph := 7, hold := 9, out := 11 }

/-- V-RST-3: what CH_RESET clears and keeps, and the other context's OUT. -/
theorem test_chReset :
    reg 1 (fun ch => ch) (.chReset 1) (block [busy, busy]) =
      some { busy with phase := 0, syncph := 0, hold := 0, out := 0 } ∧
    reg 0 (fun ch => ch) (.chReset 1) (block [busy, busy]) = some busy := by decide

/-- V-RST-1: every channel, and STATUS is kept. -/
theorem test_allReset :
    after .allReset { block [busy, busy] with status := { err := true, ecode := .badValue } } =
      some { block [{ busy with phase := 0, syncph := 0, hold := 0, out := 0 },
        { busy with phase := 0, syncph := 0, hold := 0, out := 0 }] with
          status := { err := true, ecode := .badValue } } := by decide +kernel

/-- V-ERR-5. -/
theorem test_clrStatus : status .clrStatus { two with status := { err := true, ecode := .chRange } } = some 0 := by decide

/-- V-ENC-1. -/
theorem test_nop : after .nop two = some two := by decide +kernel

/-! ### Reads (section 2.10) -/

theorem test_rdPhase : rdata (.rdPhase 0) (block [{ chan 0 with phase := 0x08000000 }, chan 1]) = some 0x08000000 := by
  decide
theorem test_rdInc : rdata (.rdInc 1) (block [chan 0, { chan 1 with inc := 0x80000000 }]) = some 0x80000000 := by decide
/-- V-WR-4 and V-SYN-4. -/
theorem test_rdCtrl :
    rdata (.rdCtrl 1) (block [chan 0, { chan 1 with wave := .random, syncEn := true }]) = some 0x0000000C ∧
    rdata (.rdCtrl 0) two = some 0 := by decide
/-- V-RD-1. -/
theorem test_rdPw : rdata (.rdPw 0) two = some 0x00008000 := by decide
/-- V-RD-2 (channel 3 of four). -/
theorem test_rdSeed : rdata (.rdSeed 3) (State.resetWith 4 Build.default) = some 4 := by decide
/-- V-SYN-1. -/
theorem test_rdSyncph : rdata (.rdSyncph 1) (block [chan 0, { chan 1 with syncph := 0x40000000 }]) = some 0x40000000 := by
  decide
/-- V-RD-7, and the sign extension. -/
theorem test_rdHold :
    rdata (.rdHold 0) (block [{ chan 0 with hold := 15496 }, chan 1]) = some 0x00003C88 ∧
    rdata (.rdHold 0) (block [{ chan 0 with hold := 0x8000 }, chan 1]) = some 0xFFFF8000 := by decide
/-- V-RD-6. -/
theorem test_rdOut :
    rdata (.rdOut 0) (block [{ chan 0 with out := BitVec.ofInt 16 (-30720) }, chan 1]) = some 0xFFFF8800 := by decide
/-- V-ERR-4: the code stands in bits 7..4. -/
theorem test_rdStatus : rdata .rdStatus { two with status := { err := true, ecode := .chRange } } = some 0x21 := by decide
/-- V-RD-3. -/
theorem test_rdId : rdata .rdId two = some 0x4F534331 := by decide
/-- V-RD-4 and V-RD-5. -/
theorem test_rdConfig : State.reset.configWord = 0x020A0100 ∧ rdata .rdConfig two = some 0x020A0002 := by
  decide +kernel

/-! ### Errors and their priority (section 2.11), reset and the port -/

/-- V-ERR-1, V-ERR-2, V-ENC-12's error, V-ENC-2, V-RD-5's second command. -/
theorem test_error_priority :
    status (.wrCtrl 4095 7) two = some 0x21 ∧ wordStatus 0x20000010 7 two = some 0x11 ∧
    wordStatus 0x81000007 0 two = some 0x21 ∧ wordStatus 0x00000001 0 two = some 0x11 ∧
    status (.rdPhase 2) two = some 0x21 := by decide

/-- V-ERR-3 and V-RD-8: the first error is kept, and a failing read leaves RDATA. -/
theorem test_error_kept :
    status (.wrInc 4095 1) { two with status := { err := true, ecode := .badValue } } = some 0x31 ∧
    rdata (.rdOut 300) { two with rdata := 0x3E3A2BD2 } = some 0x3E3A2BD2 := by decide

/-- A step's next state. -/
def stepped (s : State) : Option State :=
  match step s with
  | .next t    => some t
  | .fault _   => none
  | .refused _ => none

/-- V-RST-5: the reset input clears everything, and the command presented waits. -/
theorem test_step_rst :
    stepped { block [busy, busy] with
      rdata := 5
      status := { err := true, ecode := .badValue }
      port := { commands := [⟨0x90000000, 0⟩], rst := [true, false] } } =
    some { two with port := { commands := [⟨0x90000000, 0⟩], rst := [false] } } := by decide +kernel

/-- R297: with nothing presented nothing changes. -/
theorem test_step_idle : stepped (block [busy, busy]) = some (block [busy, busy]) := by decide +kernel

/-- The word placed for the next step is performed by it, from the state after reset. -/
theorem test_withFetchWord :
    (stepped (State.reset.withFetchWord 32 0xB0000001)).map (fun t => (t.rdata, t.port.commands)) =
      some (0x4F534331, []) ∧
    (stepped (State.reset.withFetchWord 64 0x0000000510FF0000)).bind (fun t => (t.chan? 255).map fun ch => ch.inc) =
      some 5 := by decide +kernel

/-- R58, R9: a build outside the legal range is not built. -/
theorem test_build_refused :
    State.build? 3 Build.default = none ∧ State.build? 0 Build.default = none ∧ State.build? 4098 Build.default = none ∧
    State.build? 2 { Build.default with quarter := [] } = none := by decide +kernel

/-- R58's limits on registers: an increment past half a turn, and a synced even channel, are not legal. -/
theorem test_legalAt_refuses :
    Channel.legalAt 0 { chan 0 with inc := 0x80000001 } = false ∧ Channel.legalAt 0 { chan 0 with syncEn := true } = false ∧
    Channel.legalAt 1 { chan 1 with syncEn := true } = true ∧
    Status.legal { err := false, ecode := .chRange } = false ∧ Status.legal { err := true, ecode := .none } = false := by
  decide

/-! ### The host side -/

/-- V-ENC-9: at 48000 Hz and at 44100 Hz. -/
theorem test_setFreq :
    [440, 880].map (fun f => freqIncrement ⟨48000, 1⟩ ⟨f, 1⟩) = [39370534, 78741067] ∧
    [440, 880].map (fun f => freqIncrement ⟨44100, 1⟩ ⟨f, 1⟩) = [42852281, 85704563] := by decide +kernel

/-- R118: the other expansions. -/
theorem test_pseudo_expansions :
    Pseudo.expand ⟨48000, 1⟩ (.setWaveSync 3 2) = some [.wrCtrl 3 0xA] ∧
    Pseudo.expand ⟨48000, 1⟩ (.setWaveSync 2 2) = none ∧
    Pseudo.expand ⟨48000, 1⟩ (.setWave 0 4) = some [.wrCtrl 0 4] ∧
    Pseudo.expand ⟨48000, 1⟩ (.setDuty 0 ⟨1, 2⟩) = some [.wrPw 0 0x8000] ∧
    Pseudo.expand ⟨48000, 1⟩ (.setDuty 0 ⟨1, 1⟩) = some [.wrPw 0 0xFFFF] ∧
    Pseudo.expand ⟨48000, 1⟩ (.renderRead 2 3) = some [.step, .rdOut 3, .step, .rdOut 3] ∧
    Pseudo.expand ⟨48000, 1⟩ (.voiceReset 1) = some [.chReset 2, .chReset 3] ∧
    Pseudo.expand ⟨48000, 1⟩ .panic = some [.allReset] := by decide +kernel

/-- R117's limits on `w` and `w + 8` (log 17): the largest operand, the first one past it, and the negative ones. -/
theorem test_pseudo_wave_range :
    Pseudo.expand ⟨48000, 1⟩ (.setWaveSync 1 4294967287) = some [.wrCtrl 1 0xFFFFFFFF] ∧
    Pseudo.expand ⟨48000, 1⟩ (.setWaveSync 1 4294967288) = none ∧
    Pseudo.expand ⟨48000, 1⟩ (.setWaveSync 1 (-1)) = some [.wrCtrl 1 7] ∧
    Pseudo.expand ⟨48000, 1⟩ (.setWave 1 (-1)) = some [.wrCtrl 1 0xFFFFFFFF] ∧
    Pseudo.expand ⟨48000, 1⟩ (.setWave 1 4294967296) = none := by decide +kernel

/-- Lines of P2 and P3 (R116, R117). -/
theorem test_assemble :
    assembleLine "WR_CTRL 3, 0xA ; SAW, sync on".toList = .command ⟨0x20030000, 0xA⟩ ∧
    assembleLine "  STEP".toList = .command ⟨0x90000000, 0⟩ ∧
    assembleLine "RD_OUT 300".toList = .command ⟨0x812C0007, 0⟩ ∧
    assembleLine "WR_SEED 6,-1".toList = .command ⟨0x50060000, 0xFFFFFFFF⟩ ∧
    assembleLine "; a comment".toList = .empty := by decide +kernel

/-- R116, R117: what the assembler refuses. -/
theorem test_assemble_refused :
    assembleLine "RD_OUT 4096".toList = .refused .channel ∧ assembleLine "RD_OUT".toList = .refused .operands ∧
    assembleLine "WR_PW 0, 4294967296".toList = .refused .data ∧ assembleLine "JUMP 0".toList = .refused .mnemonic ∧
    assembleLine "WR_PW 0, 1z".toList = .refused .number ∧ assembleLine "STEP 1".toList = .refused .operands := by
  decide +kernel

/-- Log 18: a pseudo-instruction is no line of the assembler's. -/
theorem test_assemble_pseudo :
    assembleLine "PANIC".toList = .refused .mnemonic ∧ assembleLine "SET_WAVE 0, 2".toList = .refused .mnemonic := by
  decide +kernel

/-- R331: a read gives its RDATA, a STEP the vector of its samples. -/
theorem test_observe :
    (observe [⟨0xB0000001, 0⟩, ⟨0x90000000, 0⟩] two).reads = [0x4F534331] ∧
    (observe [⟨0xB0000001, 0⟩, ⟨0x90000000, 0⟩] two).frames = [[0, 0]] := by decide +kernel

/-! ### Witnesses: for every statement with hypotheses, values that meet them together, one per clause, at the boundary -/

theorem witness_DecodeOfEncodeIsTheInstruction : Instr.WellFormed (.wrSyncph 4095 0xFFFFFFFF) ∧ Instr.WellFormed .step := by
  decide

theorem witness_EncodeOfDecodeIsTheWord :
    decode ⟨0x1FFF0000, 0xFFFFFFFF⟩ = .legal (.wrInc 4095 0xFFFFFFFF) ∧
    Instr.data? (.wrInc 4095 0xFFFFFFFF) = some 0xFFFFFFFF := by decide

/-- A covered word of a channel row and of a global row, an uncovered one, and the two ends of OP 0xB's selectors. -/
theorem witness_CommandWordDecodesToItsUniqueRow :
    (∃ r ∈ opcodeTable, r.covers 0x8FFF0007 = true) ∧ (∃ r ∈ opcodeTable, r.covers 0xC0000000 = true) ∧
    (∀ r ∈ opcodeTable, r.covers 0xD0000000 = false) ∧ (∀ r ∈ opcodeTable, r.covers 0xB0000003 = false) ∧
    decode ⟨0x8FFF0007, 0⟩ = .legal (.rdOut 4095) := by decide

theorem witness_NonzeroReservedFieldsAreIllegal :
    (Spec.op ⟨0xCFFF0000, 0⟩ = 12 ∧ Spec.chan ⟨0xCFFF0000, 0⟩ = 4095) ∧ Spec.rsv ⟨0x10000010, 0⟩ = 1 ∧
    (Spec.op ⟨0x7000000F, 0⟩ = 7 ∧ Spec.sel ⟨0x7000000F, 0⟩ = 15) := by decide

theorem witness_SelectorsNameTheReadRegisters :
    (Spec.rsv ⟨0x8FFF0007, 0⟩ = 0 ∧ Spec.op ⟨0x8FFF0007, 0⟩ = 8 ∧ Spec.sel ⟨0x8FFF0007, 0⟩ = 7) ∧
    (Spec.rsv ⟨0x80000000, 0⟩ = 0 ∧ Spec.op ⟨0x80000000, 0⟩ = 8 ∧ Spec.sel ⟨0x80000000, 0⟩ = 0) ∧
    (Spec.rsv ⟨0x80000008, 0⟩ = 0 ∧ Spec.op ⟨0x80000008, 0⟩ = 8 ∧ Spec.sel ⟨0x80000008, 0⟩ = 8) ∧
    (Spec.rsv ⟨0xB0000002, 0⟩ = 0 ∧ Spec.op ⟨0xB0000002, 0⟩ = 11 ∧ Spec.chan ⟨0xB0000002, 0⟩ = 0 ∧
      Spec.sel ⟨0xB0000002, 0⟩ = 2) ∧
    (Spec.rsv ⟨0xB000000F, 0⟩ = 0 ∧ Spec.op ⟨0xB000000F, 0⟩ = 11 ∧ Spec.chan ⟨0xB000000F, 0⟩ = 0 ∧
      Spec.sel ⟨0xB000000F, 0⟩ = 15) := by decide

theorem witness_EncodedWordIsItsRowsMatchAndChannel :
    (Instr.WellFormed (.rdHold 4095) ∧ Instr.channel? (.rdHold 4095) = some 4095) ∧
    (Instr.WellFormed .rdConfig ∧ Instr.channel? .rdConfig = none) := by decide

/-- The state after reset with one command presented. -/
def presenting (c : Command) (rst : List Bool) : State := { two with port := { commands := [c], rst := rst } }

theorem witness_StepPerformsThePresentedCommand :
    ((presenting ⟨0x90000000, 0⟩ []).port.commands = [⟨0x90000000, 0⟩] ∧
      (presenting ⟨0x90000000, 0⟩ []).port.rst.head? ≠ some true ∧
      (presenting ⟨0x90000000, 0⟩ [false]).port.rst.head? ≠ some true) ∧
    decode ⟨0x90000000, 0⟩ = .legal .step := by decide

theorem witness_StepOnIllegalWordOnlyRecords :
    (presenting ⟨0xFFFFFFFF, 0⟩ []).port.commands = [⟨0xFFFFFFFF, 0⟩] ∧
    (presenting ⟨0xFFFFFFFF, 0⟩ []).port.rst.head? ≠ some true ∧
    ∀ r ∈ opcodeTable, r.covers 0xFFFFFFFF = false := by decide

theorem witness_RstSetsEveryRegister :
    (presenting ⟨0x90000000, 0⟩ [true]).port.rst.head? = some true ∧ 1 < (presenting ⟨0x90000000, 0⟩ [true]).chans.length := by
  decide

theorem witness_IdleBlockKeepsItsRegisters : two.port.commands = [] ∧ two.port.rst.head? ≠ some true := by decide

/-- The last context, the first number past it, the first and the last reserved WAVE code. -/
theorem witness_FailingCommandsRecordOneErrorAndNothingElse :
    Spec.isIllegal ⟨0xD0000000, 0⟩ ∧
    (decode ⟨0x80020007, 0⟩ = .legal (.rdOut 2) ∧ Instr.channel? (.rdOut 2) = some 2 ∧ two.chans.length ≤ 2) ∧
    (decode ⟨0x20010000, 5⟩ = .legal (.wrCtrl 1 5) ∧ 1 < two.chans.length ∧ 5 ≤ (5 : Word).toNat % 8) ∧
    (decode ⟨0x20010000, 0xF⟩ = .legal (.wrCtrl 1 0xF) ∧ 5 ≤ (0xF : Word).toNat % 8) :=
  ⟨⟨.unknownOp, by decide⟩, by decide⟩

theorem witness_ErrorTableByCommand :
    (∀ r ∈ opcodeTable, r.covers 0x00000001 = false) ∧
    (Instr.channel? (.wrCtrl 2 7) = some 2 ∧ two.chans.length ≤ 2) ∧
    (1 < two.chans.length ∧ 5 ≤ (0xD : Word).toNat % 8) ∧
    ((∀ n, Instr.channel? (.wrCtrl 1 12) = some n → n < two.chans.length) ∧
      ∀ n d, Instr.wrCtrl 1 12 = .wrCtrl n d → d.toNat % 8 < 5) ∧
    ((∀ n, Instr.channel? .clrStatus = some n → n < two.chans.length) ∧
      ∀ n d, Instr.clrStatus = .wrCtrl n d → d.toNat % 8 < 5) := by
  refine ⟨by decide, by decide, by decide, ⟨?_, ?_⟩, ⟨?_, ?_⟩⟩
  · rintro n h; cases h; decide
  · rintro n d h; cases h; decide
  · rintro n h; cases h
  · rintro n d h; cases h

/-- A block that has failed once. -/
def failed : State := { two with status := { err := true, ecode := .badValue } }

theorem witness_FirstErrorIsKept :
    (failed.status.err = true ∧ decode ⟨0xD0000000, 0⟩ ≠ .legal .clrStatus ∧
      perform ⟨0xD0000000, 0⟩ failed = .next (failed.raiseError .illegalCmd)) ∧
    (∀ c ∈ [(⟨0xD0000000, 0⟩ : Command), ⟨0x90000000, 0⟩], decode c ≠ .legal .clrStatus) :=
  ⟨⟨rfl, by decide, rfl⟩, by decide⟩

/-- The last channel number an encoding holds, the last context and the first number past it, for WR_INC, WR_PW,
WR_PHASE, WR_SEED, WR_SYNCPH, CH_RESET and the channel reads; the two sides of WR_INC's clamp. -/
theorem witness_channelCommands :
    4095 < 4096 ∧ two.chans[1]? = some (chan 1) ∧ two.chans.length ≤ 2 ∧
    (0x80000000 : Word).toNat ≤ 2 ^ 31 ∧ ¬(0x80000001 : Word).toNat ≤ 2 ^ 31 := by decide

/-- WR_CTRL: the last defined and the first reserved code, on an odd and on an even channel, bit 3 set. -/
theorem witness_WrCtrlStoresWaveAndSync :
    (two.chans[1]? = some (chan 1) ∧ (12 : Word).toNat % 8 < 5 ∧ (12 : Word).toNat / 8 % 2 = 1) ∧
    two.chans[0]? = some (chan 0) ∧ (1 < two.chans.length ∧ 5 ≤ (13 : Word).toNat % 8) ∧ two.chans.length ≤ 2 := by decide

theorem witness_ChannelReadsReturnTheRegister :
    two.chans[1]? = some (chan 1) ∧ Instr.isRead (.rdOut 2) = true ∧ Instr.channel? (.rdOut 2) = some 2 ∧
    two.chans.length ≤ 2 := by decide

theorem witness_WriteThenReadReturnsTheValue : 1 < two.chans.length ∧ (12 : Word).toNat % 8 < 5 := by decide

/-! The contexts of the STEP statements: an even one that runs, an odd one whose sync accumulator wraps exactly, and an
odd one one short of its wrap. -/

def master : Channel := { chan 0 with inc := 0x40000000, phase := 0xC0000000, syncEn := true }
def wrapping : Channel := { chan 1 with syncEn := true, syncph := 0xC0000000, inc := 1, phase := 5 }
def short : Channel := { chan 1 with syncEn := true, syncph := 0xBFFFFFFF, inc := 1, phase := 5 }

theorem wrapping_wraps (w : Wave) : Spec.syncWraps (block [master, { wrapping with wave := w }]) 1 { wrapping with wave := w } :=
  ⟨⟨rfl, rfl⟩, master, rfl, show 2 ^ 32 ≤ wrapping.syncph.toNat + master.inc.toNat by decide⟩

theorem short_does_not_wrap (w : Wave) : ¬Spec.syncWraps (block [master, { short with wave := w }]) 1 { short with wave := w } := by
  rintro ⟨_, m, hm, h⟩
  cases Option.some.inj hm
  exact absurd (show 2 ^ 32 ≤ short.syncph.toNat + master.inc.toNat from h) (by decide)

/-- An even channel is not synced, whatever its SYNC_EN bit holds; an odd one with the bit clear is not. -/
theorem witness_not_synced : ¬Spec.synced 0 master ∧ ¬Spec.synced 1 (chan 1) := by
  constructor <;> rintro ⟨h, h'⟩ <;> revert h h' <;> decide

/-- STEP's frame: each waveform's context exists, and each guard holds of one. -/
theorem witness_StepFrame :
    (block [master, wrapping]).chans[0]? = some master ∧ master.wave ≠ .noise ∧ master.wave ≠ .random ∧
    ¬Spec.synced 0 master := ⟨rfl, by decide, by decide, witness_not_synced.1⟩

/-- PHASE: a wrap, no wrap; in RANDOM mode a new cycle by the carry, one by the wrap alone, and none. -/
theorem witness_StepAdvancesPhaseAndFindsNewCycle :
    ((block [master, { wrapping with wave := .random }]).chans[1]? = some { wrapping with wave := .random } ∧
      Spec.syncWraps (block [master, { wrapping with wave := .random }]) 1 { wrapping with wave := .random } ∧
      Spec.newCycle (block [master, { wrapping with wave := .random }]) 1 { wrapping with wave := .random }) ∧
    Spec.newCycle (block [{ master with wave := .random }, chan 1]) 0 { master with wave := .random } ∧
    ((block [master, { short with wave := .random }]).chans[1]? = some { short with wave := .random } ∧
      ¬Spec.syncWraps (block [master, { short with wave := .random }]) 1 { short with wave := .random } ∧
      ¬Spec.newCycle (block [master, { short with wave := .random }]) 1 { short with wave := .random }) := by
  refine ⟨⟨rfl, wrapping_wraps _, .inr (wrapping_wraps _)⟩, .inl (by decide), rfl, short_does_not_wrap _, ?_⟩
  rintro (h | h)
  · revert h; decide
  · exact short_does_not_wrap _ h

/-- Sync on with an exact wrap, in SINE, PULSE and SAW mode, one short of a wrap, and sync off. -/
theorem witness_StepAdvancesTheSyncAccumulator :
    ((block [master, wrapping]).chans[1]? = some wrapping ∧ (block [master, wrapping]).chans[0]? = some master ∧
      Spec.synced 1 wrapping ∧ 2 ^ 32 ≤ wrapping.syncph.toNat + master.inc.toNat ∧ wrapping.wave = .sine) ∧
    ((block [master, { wrapping with wave := .pulse }]).chans[1]? = some { wrapping with wave := .pulse } ∧
      (block [master, { wrapping with wave := .saw }]).chans[1]? = some { wrapping with wave := .saw }) ∧
    (Spec.synced 1 short ∧ short.syncph.toNat + master.inc.toNat < 2 ^ 32) ∧ ¬Spec.synced 1 (chan 1) :=
  ⟨⟨rfl, rfl, ⟨rfl, rfl⟩, by decide, rfl⟩, ⟨rfl, rfl⟩, ⟨⟨rfl, rfl⟩, by decide⟩, witness_not_synced.2⟩

theorem witness_StepSineSample : (block [master, wrapping]).chans[0]? = some master ∧ master.wave = .sine := ⟨rfl, rfl⟩

/-- The words `Spec.onlyWords` rules out: a CH, an RSV and a SEL bit too many, for OP 0x0, 0x9, 0xA, 0xB and 0xC. -/
theorem witness_onlyWords :
    (Spec.op ⟨0x00010000, 0⟩ = 0 ∧ (0x00010000 : Word) ∉ [(0x00000000 : Word)]) ∧
    (Spec.op ⟨0x90000010, 0⟩ = 9 ∧ (0x90000010 : Word) ∉ [(0x90000000 : Word)]) ∧
    (Spec.op ⟨0xA0000001, 0⟩ = 10 ∧ (0xA0000001 : Word) ∉ [(0xA0000000 : Word)]) ∧
    (Spec.op ⟨0xB0000003, 0⟩ = 11 ∧ (0xB0000003 : Word) ∉ [(0xB0000000 : Word), 0xB0000001, 0xB0000002]) ∧
    (Spec.op ⟨0xC0010000, 0⟩ = 12 ∧ (0xC0010000 : Word) ∉ [(0xC0000000 : Word)]) := by decide

/-- PULSE's clause on INC at its limit. -/
theorem witness_StepPulseSample :
    (block [{ chan 0 with wave := .pulse, inc := 0x80000000 }, chan 1]).chans[0]? =
      some { chan 0 with wave := .pulse, inc := 0x80000000 } ∧ (0x80000000 : Word).toNat ≤ 2 ^ 31 := ⟨rfl, by decide⟩

theorem witness_StepSawSample :
    (block [{ chan 0 with wave := .saw, inc := 0x80000000 }, chan 1]).chans[0]? =
      some { chan 0 with wave := .saw, inc := 0x80000000 } ∧ (0x80000000 : Word).toNat ≤ 2 ^ 31 := ⟨rfl, by decide⟩

/-- NOISE on a channel that is not synced, and on one whose sync accumulator wraps. -/
theorem witness_StepNoiseSample :
    ((block [{ chan 0 with wave := .noise }, chan 1]).chans[0]? = some { chan 0 with wave := .noise } ∧
      ¬Spec.synced 0 { chan 0 with wave := .noise } ∧
      ¬Spec.syncWraps (block [{ chan 0 with wave := .noise }, chan 1]) 0 { chan 0 with wave := .noise }) ∧
    ((block [master, { wrapping with wave := .noise }]).chans[1]? = some { wrapping with wave := .noise } ∧
      Spec.synced 1 { wrapping with wave := .noise } ∧
      Spec.syncWraps (block [master, { wrapping with wave := .noise }]) 1 { wrapping with wave := .noise }) :=
  ⟨⟨rfl, by rintro ⟨h, _⟩; revert h; decide, by rintro ⟨⟨h, _⟩, _⟩; revert h; decide⟩,
    rfl, ⟨rfl, rfl⟩, wrapping_wraps _⟩

theorem witness_StepRandomSample :
    ((block [{ master with wave := .random }, chan 1]).chans[0]? = some { master with wave := .random } ∧
      Spec.newCycle (block [{ master with wave := .random }, chan 1]) 0 { master with wave := .random }) ∧
    ((block [master, { short with wave := .random }]).chans[1]? = some { short with wave := .random } ∧
      ¬Spec.newCycle (block [master, { short with wave := .random }]) 1 { short with wave := .random }) :=
  ⟨⟨rfl, .inl (by decide)⟩, rfl, witness_StepAdvancesPhaseAndFindsNewCycle.2.2.2.2⟩

theorem witness_default_build_legal : Build.default.legal = true := by decide +kernel

theorem witness_SamplesStayInRange :
    (block [{ chan 0 with wave := .pulse }, { chan 1 with wave := .saw }]).chans[1]? = some { chan 1 with wave := .saw } ∧
    two.chans[0]? = some (chan 0) ∧ (chan 0).wave = .sine ∧ two.build.legal = true :=
  ⟨rfl, rfl, rfl, witness_default_build_legal⟩

/-- The default table is legal, and so is another one: 0, then 32767 to the end (R147 fixes no more of the first quarter). -/
theorem witness_SineTableSymmetriesAndRange :
    Build.legal { Build.default with quarter := 0 :: List.replicate 256 32767 } = true ∧
    (256 ≤ 256 ∧ 256 < 257 ∧ 512 ≤ 512 ∧ 512 < 513 ∧ 1023 < 1024) := by decide +kernel

theorem witness_PhaseAfterStepsAndPeriod :
    (block [master, chan 1]).chans[0]? = some master ∧ ¬Spec.synced 0 master ∧ 0 < master.inc.toNat ∧
    master.inc.toNat ∣ 2 ^ 32 ∧ master.wave = .sine ∧ (1 : Nat) ≤ 1 :=
  ⟨rfl, witness_not_synced.1, by decide, ⟨4, by decide⟩, rfl, le_rfl⟩

/-- RANDOM at half a turn a STEP: it carries in the second and in the fourth STEP and not in the third. -/
theorem witness_RandomHoldLength :
    (block [{ chan 0 with wave := .random, inc := 0x80000000 }, chan 1]).chans[0]? =
      some { chan 0 with wave := .random, inc := 0x80000000 } ∧
    ¬Spec.synced 0 { chan 0 with wave := .random, inc := 0x80000000 } ∧
    0 < (0x80000000 : Word).toNat ∧ (0x80000000 : Word).toNat ≤ 2 ^ 31 ∧
    ([1, 2, 3].map fun n =>
      ((State.render n (block [{ chan 0 with wave := .random, inc := 0x80000000 }, chan 1])).chan? 0).map
        fun ch => decide (2 ^ 32 ≤ ch.phase.toNat + ch.inc.toNat)) = [some true, some false, some true] := by
  refine ⟨rfl, ?_, by decide, by decide, by decide +kernel⟩
  rintro ⟨h, _⟩
  revert h
  decide

theorem witness_SyncAccumulatorTracksTheMaster :
    (block [master, wrapping]).chans[2 * 0]? = some master ∧ (block [master, wrapping]).chans[2 * 0 + 1]? = some wrapping ∧
    wrapping.syncEn = true ∧ wrapping.syncph = master.phase := ⟨rfl, rfl, rfl, rfl⟩

theorem witness_EqualSeedsGiveEqualNoise :
    (block [{ chan 0 with wave := .noise }, { chan 0 with wave := .noise, inc := 9 }]).chans[0]? =
      some { chan 0 with wave := .noise } ∧
    (block [{ chan 0 with wave := .noise }, { chan 0 with wave := .noise, inc := 9 }]).chans[1]? =
      some { chan 0 with wave := .noise, inc := 9 } ∧ (1 : Nat) ≤ 1 := ⟨rfl, rfl, le_rfl⟩

/-- A STEP, a read, WR_SEED and an illegal word; the STEP's frame is the one the statement speaks of. -/
theorem witness_ResetStateIsSilent :
    Build.default.legal = true ∧ 1 < 2 ∧
    (∀ c ∈ [(⟨0x90000000, 0⟩ : Command), ⟨0x80010007, 0⟩, ⟨0x50000000, 7⟩, ⟨0xD0000000, 0⟩], ∀ n d,
      decode c ≠ .legal (.wrInc n d) ∧ decode c ≠ .legal (.wrCtrl n d) ∧ decode c ≠ .legal (.wrPhase n d)) ∧
    (observe [⟨0x90000000, 0⟩] two).frames.length = 1 := by
  refine ⟨witness_default_build_legal, by decide, ?_, by decide +kernel⟩
  intro c hc n d
  simp only [List.mem_cons, List.not_mem_nil, or_false] at hc
  rcases hc with rfl | rfl | rfl | rfl
  · rw [show decode ⟨0x90000000, 0⟩ = .legal .step by decide]; simp
  · rw [show decode ⟨0x80010007, 0⟩ = .legal (.rdOut 1) by decide]; simp
  · rw [show decode ⟨0x50000000, 7⟩ = .legal (.wrSeed 0 7) by decide]; simp
  · rw [show decode ⟨0xD0000000, 0⟩ = .illegal .unknownOp by decide]; simp

/-- Two states that differ in the master's PHASE, STATUS and the other contexts, and agree on the master's INC. -/
theorem witness_StepOfAContextReadsOnlyItAndTheMastersIncrement :
    (block [master, wrapping]).chans[1]? = some wrapping ∧
    (block [{ master with phase := 1, wave := .saw }, wrapping, busy]).chans[1]? = some wrapping ∧
    ((block [master, wrapping]).chans[1 - 1]?).map (·.inc) =
      ((block [{ master with phase := 1, wave := .saw }, wrapping, busy]).chans[1 - 1]?).map (·.inc) ∧
    Spec.synced 1 wrapping := ⟨rfl, rfl, rfl, rfl, rfl⟩

theorem witness_EngineEqualsSeparateVoices :
    (block [busy, busy, master, wrapping]).chans[2 * 1]? = some master ∧
    (block [busy, busy, master, wrapping]).chans[2 * 1 + 1]? = some wrapping := ⟨rfl, rfl⟩

theorem witness_ChannelCommandTouchesOneContext :
    Instr.channel? (.wrInc 1 5) = some 1 ∧ 0 ≠ 1 ∧
    (block [busy, chan 1]).chans[1]? = (block [master, chan 1, busy]).chans[1]? ∧
    (block [busy, chan 1]).status = (block [master, chan 1, busy]).status ∧
    (block [busy, chan 1]).rdata = (block [master, chan 1, busy]).rdata := by decide

theorem witness_OnlyListedCommandsWriteARegister :
    two.chans[1]? = some (chan 1) ∧ Instr.isRead .clrStatus = false ∧ Instr.clrStatus ≠ .step ∧
    Instr.clrStatus ≠ .chReset 1 ∧ Instr.clrStatus ≠ .allReset ∧ (∀ d, Instr.clrStatus ≠ .wrInc 1 d) := by
  refine ⟨by decide, by decide, by decide, by decide, by decide, ?_⟩
  rintro d h
  cases h

theorem witness_EveryCommandButStepIsIdempotent :
    decode ⟨0xA0000000, 0⟩ ≠ .legal .step ∧ decode ⟨0x9000000F, 0⟩ ≠ .legal .step := by decide

theorem two_built : State.build? 2 Build.default = some two := by decide +kernel

theorem two_legal : two.Legal where
  nch := by decide
  build := witness_default_build_legal
  chans := by
    rintro c ch h
    have h2 : c < 2 := (two.chan?_isSome_iff c).1 ⟨ch, h⟩
    interval_cases c <;> cases Option.some.inj h <;> decide
  status := by decide

theorem witness_StepKeepsTheStateLegal : two.Legal ∧ step two = .next two := ⟨two_legal, rfl⟩

theorem witness_ResetStatesAreLegal : State.build? 2 Build.default = some two := two_built

/-- A read that succeeds, one that fails, a STEP, and a command that is neither; and a frame. -/
theorem witness_ObservationFollowsTheCommands :
    (Spec.readCommand ⟨0xB0000001, 0⟩ ∧ perform ⟨0xB0000001, 0⟩ two = .next (two.writeRdata 0x4F534331)) ∧
    (Spec.readCommand ⟨0x80020007, 0⟩ ∧ perform ⟨0x80020007, 0⟩ two = .next (two.raiseError .chRange)) ∧
    (decode ⟨0x90000000, 0⟩ = .legal .step ∧ perform ⟨0x90000000, 0⟩ two = .next two.sampleStep) ∧
    (¬Spec.readCommand ⟨0xD0000000, 0⟩ ∧ decode ⟨0xD0000000, 0⟩ ≠ .legal .step ∧
      perform ⟨0xD0000000, 0⟩ two = .next (two.raiseError .illegalCmd)) ∧
    [0, 0] ∈ (observe [⟨0x90000000, 0⟩] two).frames := by
  refine ⟨⟨⟨.rdId, by decide, .inr (.inr (.inl rfl))⟩, rfl⟩, ⟨⟨.rdOut 2, by decide, .inl ⟨2, by simp⟩⟩, rfl⟩,
    ⟨by decide, rfl⟩, ⟨?_, by decide, rfl⟩, by decide +kernel⟩
  rintro ⟨i, hi, _⟩
  cases (show decode ⟨0xD0000000, 0⟩ = .illegal .unknownOp by decide).symm.trans hi

theorem witness_SetFreqStoresTheRoundedIncrement :
    two.chans[0]? = some (chan 0) ∧ 0 < (⟨440, 1⟩ : Ratio).den ∧ 0 < (⟨48000, 1⟩ : Ratio).num ∧
    0 < (⟨48000, 1⟩ : Ratio).den := by decide

/-- The six values at the ends of R117's ranges, and the model's answers as R117 gives them. -/
theorem witness_DataOperandsAreTwosComplement :
    [0, 4294967295, -2147483648, -1, -2147483649, 4294967296].map dataOperand =
      [some 0, some 0xFFFFFFFF, some 0x80000000, some 0xFFFFFFFF, none, none] := by decide

end Sys2Proof.Tests
end

/-! The reset state (R57). -/

namespace Sys2Proof.Machine

/-- R8: 128 voices of two channels. -/
theorem State.reset_eq_resetWith : State.reset = State.resetWith 256 Build.default := rfl

/-- R57: each context draws from its own seed, NOISE_SEED plus its number. -/
@[simp] theorem Channel.resetAt_seed_toNat (noiseSeed : Word) (c : Nat) :
    (Channel.resetAt noiseSeed c).seed.toNat = (noiseSeed.toNat + c) % 2 ^ 32 :=
  BitVec.toNat_ofNat _ _

/-- R57: below NCH, the context of each number is at its reset value. -/
theorem State.resetWith_chans_getElem?_of_lt {n c : Nat} (b : Build) (hc : c < n) :
    (State.resetWith n b).chans[c]? = some (Channel.resetAt b.noiseSeed c) :=
  (State.chan?_resetWith n b c).trans (if_pos hc)

/-- Settles O11: the fields outside the contexts by their `resetWith` laws, the contexts by the law of each number; of a
context's registers only SEED depends on the number. -/
theorem resetStateHoldsTheResetValues : Obligations.ResetStateHoldsTheResetValues := by
  refine ⟨State.reset_eq_resetWith, rfl, fun m b => ⟨State.nch_resetWith m b, State.resetWith_status m b,
    State.resetWith_rdata m b, State.resetWith_build m b, fun c hc => ?_⟩⟩
  exact ⟨Channel.resetAt b.noiseSeed c, State.resetWith_chans_getElem?_of_lt b hc, rfl, rfl, rfl, rfl, rfl,
    Channel.resetAt_seed_toNat b.noiseSeed c, rfl, rfl, rfl⟩

end Sys2Proof.Machine

/-! Decoding: which words are legal (R111), and the row of R114's table that covers each. -/

namespace Sys2Proof

/-! ### The fields of R101 -/

theorem Spec.op_eq (c : Command) : Spec.op c = opField c.cmd := (opField_eq c.cmd).symm
theorem Spec.chan_eq (c : Command) : Spec.chan c = chField c.cmd := (chField_eq c.cmd).symm
theorem Spec.rsv_eq (c : Command) : Spec.rsv c = rsvField c.cmd := (rsvField_eq c.cmd).symm
theorem Spec.sel_eq (c : Command) : Spec.sel c = selField c.cmd := (selField_eq c.cmd).symm

/-- A word whose RSV is 0 is decoded by its OP. -/
theorem decode_of_rsvField {c : Command} (h : rsvField c.cmd = 0) :
    decode c = decodeOp (opField c.cmd) (chField c.cmd) (selField c.cmd) c.wdata :=
  if_neg (not_not_intro h)

/-- OP 0x8 reads a register of the channel in CH, by SEL (R106). -/
theorem decode_channelRead {c : Command} {sel : Nat} (hrsv : Spec.rsv c = 0) (hop : Spec.op c = 8)
    (hsel : Spec.sel c = sel) : decode c = decodeChannelRead (Spec.chan c) sel := by
  rw [Spec.rsv_eq] at hrsv
  rw [decode_of_rsvField hrsv, ← Spec.op_eq, ← Spec.chan_eq, ← Spec.sel_eq, hop, hsel]
  rfl

/-- OP 0xB with CH 0 reads a global register, by SEL (R107). -/
theorem decode_globalRead {c : Command} {sel : Nat} (hrsv : Spec.rsv c = 0) (hop : Spec.op c = 11)
    (hch : Spec.chan c = 0) (hsel : Spec.sel c = sel) : decode c = decodeGlobalRead 0 sel := by
  rw [Spec.rsv_eq] at hrsv
  rw [decode_of_rsvField hrsv, ← Spec.op_eq, ← Spec.chan_eq, ← Spec.sel_eq, hop, hch, hsel]
  rfl

/-- `decode` answers an instruction or ILLEGAL, never both. -/
theorem Spec.isIllegal_iff (c : Command) : Spec.isIllegal c ↔ ∀ i, decode c ≠ .legal i := by
  unfold Spec.isIllegal
  cases decode c <;> simp

/-! ### The legal words -/

/-- The conditions of R111's pseudocode on OP, CH and SEL of a word whose RSV is 0. -/
def LegalFields (op ch sel : Nat) : Prop :=
  (1 ≤ op ∧ op ≤ 7 ∧ sel = 0) ∨
  (op = 8 ∧ sel ≤ 7) ∨
  ((op = 0 ∨ op = 9 ∨ op = 10 ∨ op = 12) ∧ ch = 0 ∧ sel = 0) ∨
  (op = 11 ∧ ch = 0 ∧ sel ≤ 2)

/-- CH is 0 in a global command (R104). -/
theorem LegalFields.ch_eq_zero {op ch sel : Nat} (h : LegalFields op ch sel)
    (hop : op = 0 ∨ op = 9 ∨ op = 10 ∨ op = 11 ∨ op = 12) : ch = 0 := by
  unfold LegalFields at h; omega

/-- SEL is 0 outside the two read groups (R108). -/
theorem LegalFields.sel_eq_zero {op ch sel : Nat} (h : LegalFields op ch sel) (h8 : op ≠ 8) (h11 : op ≠ 11) :
    sel = 0 := by
  unfold LegalFields at h; omega

/-- A channel read has eight selectors (R106). -/
theorem LegalFields.sel_lt_eight {op ch sel : Nat} (h : LegalFields op ch sel) (hop : op = 8) : sel < 8 := by
  unfold LegalFields at h; omega

/-- A global read has three selectors (R107). -/
theorem LegalFields.sel_lt_three {op ch sel : Nat} (h : LegalFields op ch sel) (hop : op = 11) : sel < 3 := by
  unfold LegalFields at h; omega

/-- Every instruction's own fields meet R111's conditions. -/
theorem Instr.legalFields (i : Instr) : LegalFields i.op.toNat (i.channel?.getD 0) i.sel.toNat := by
  unfold LegalFields
  cases i <;> simp [Instr.op, Instr.sel, Instr.channel?]

/-- Fields that meet R111's conditions name an instruction. -/
theorem decodeOp_of_legalFields {op ch sel : Nat} (wdata : Word) (h : LegalFields op ch sel) :
    ∃ i, decodeOp op ch sel wdata = .legal i := by
  obtain ⟨hlo, hhi, rfl⟩ | ⟨rfl, hsel⟩ | ⟨rfl | rfl | rfl | rfl, rfl, rfl⟩ | ⟨rfl, rfl, hsel⟩ := h
  · interval_cases op <;> exact ⟨_, rfl⟩
  · interval_cases sel <;> exact ⟨_, rfl⟩
  · exact ⟨.nop, rfl⟩
  · exact ⟨.step, rfl⟩
  · exact ⟨.allReset, rfl⟩
  · exact ⟨.clrStatus, rfl⟩
  · interval_cases sel <;> exact ⟨_, rfl⟩

/-- R111: the legal words are those whose RSV is 0 and whose other fields meet the pseudocode's conditions. -/
theorem exists_decode_legal_iff (c : Command) :
    (∃ i, decode c = .legal i) ↔
      Spec.rsv c = 0 ∧ LegalFields (Spec.op c) (Spec.chan c) (Spec.sel c) := by
  rw [Spec.rsv_eq, Spec.op_eq, Spec.chan_eq, Spec.sel_eq]
  constructor
  · rintro ⟨i, hi⟩
    obtain ⟨hrsv, hop, hsel, hch, -, -⟩ := decode_legal_fields c i hi
    exact ⟨hrsv, hop ▸ hsel ▸ hch ▸ i.legalFields⟩
  · rintro ⟨hrsv, hfields⟩
    rw [decode_of_rsvField hrsv]
    exact decodeOp_of_legalFields c.wdata hfields

/-- R112: a word is illegal where its fields break R111's conditions. -/
theorem Spec.isIllegal_of_not_legalFields {c : Command}
    (h : Spec.rsv c = 0 → ¬LegalFields (Spec.op c) (Spec.chan c) (Spec.sel c)) : Spec.isIllegal c := by
  refine (Spec.isIllegal_iff c).2 fun i hi => ?_
  obtain ⟨hrsv, hfields⟩ := (exists_decode_legal_iff c).1 ⟨i, hi⟩
  exact h hrsv hfields

/-! ### The rows of R114's table -/

/-- Two rows cover no common word where their patterns differ in a bit that both masks keep. -/
theorem OpcodeRow.not_covers_both {r r' : OpcodeRow} (h : r.pattern &&& r'.mask ≠ r'.pattern &&& r.mask) (w : Word) :
    ¬(r.covers w = true ∧ r'.covers w = true) := by
  simp only [OpcodeRow.covers, beq_iff_eq]
  rintro ⟨hr, hr'⟩
  apply h
  rw [← hr, ← hr', BitVec.and_assoc, BitVec.and_assoc, BitVec.and_comm r.mask]

/-- R111: the rows are pairwise disjoint. -/
theorem opcodeTable_pairwise_disjoint :
    opcodeTable.Pairwise fun r r' => ∀ w : Word, ¬(r.covers w = true ∧ r'.covers w = true) :=
  List.Pairwise.imp OpcodeRow.not_covers_both
    (show opcodeTable.Pairwise fun r r' => r.pattern &&& r'.mask ≠ r'.pattern &&& r.mask by decide)

/-- R114: a row is a channel row or a global row; its pattern has RSV 0 and CH 0. -/
theorem opcodeTable_masks : ∀ r ∈ opcodeTable, (r.mask = 0xF000FFFF ∨ r.mask = 0xFFFFFFFF) ∧
    rsvField r.pattern = 0 ∧ chField r.pattern = 0 := by decide

/-- The fields of a covered word are those of its row's pattern, but for CH under a channel row. -/
theorem OpcodeRow.fields_of_covers {r : OpcodeRow} {w : Word} (hr : r ∈ opcodeTable) (h : r.covers w = true) :
    rsvField w = 0 ∧ opField w = opField r.pattern ∧ selField w = selField r.pattern ∧
      chField w = if r.mask = 0xFFFFFFFF then 0 else chField w := by
  obtain ⟨hmask, hrsv, hch⟩ := opcodeTable_masks r hr
  have hpat := word_of_fields r.pattern
  have := opField_lt r.pattern
  have := selField_lt w
  have := selField_lt r.pattern
  have := rsvField_lt w
  have := chField_lt w
  obtain hm | hm := hmask
  · rw [r.covers_channel w hm] at h
    rw [hm, if_neg (by decide)]
    omega
  · rw [r.covers_global w hm] at h
    rw [if_pos hm]
    omega

/-- A row's OP and SEL name the instruction of its mnemonic, for every channel under a channel row. -/
theorem decodeOp_of_row {r : OpcodeRow} (hr : r ∈ opcodeTable) (ch : Nat) (wdata : Word) :
    ∃ i, decodeOp (opField r.pattern) (if r.mask = 0xFFFFFFFF then 0 else ch) (selField r.pattern) wdata = .legal i ∧
      i.mnemonic = r.mnemonic := by
  simp only [opcodeTable, List.mem_cons, List.not_mem_nil, or_false] at hr
  obtain rfl | rfl | rfl | rfl | rfl | rfl | rfl | rfl | rfl | rfl | rfl | rfl | rfl | rfl | rfl | rfl | rfl | rfl | rfl |
    rfl | rfl | rfl := hr
  all_goals exact ⟨_, rfl, rfl⟩

/-- A covered word is legal, and its instruction has the row's mnemonic. -/
theorem decode_of_covers {r : OpcodeRow} {c : Command} (hr : r ∈ opcodeTable) (h : r.covers c.cmd = true) :
    ∃ i, decode c = .legal i ∧ i.mnemonic = r.mnemonic := by
  obtain ⟨hrsv, hop, hsel, hch⟩ := OpcodeRow.fields_of_covers hr h
  rw [decode_of_rsvField hrsv, hop, hsel, hch]
  exact decodeOp_of_row hr (chField c.cmd) c.wdata

/-- A legal word is the command word of what it decodes to. -/
theorem encode_cmd_of_decode {c : Command} {i : Instr} (h : decode c = .legal i) : (encode i).cmd = c.cmd := by
  obtain ⟨hrsv, hop, hsel, hch, -, -⟩ := decode_legal_fields c i h
  apply BitVec.eq_of_toNat_eq
  rw [word_of_fields c.cmd, encode, packWord_toNat, hrsv, hop, hsel, ← hch, Nat.mod_eq_of_lt (chField_lt c.cmd),
    Nat.zero_mul, Nat.add_zero]

/-- R114: the row of each instruction's mnemonic covers its word. -/
theorem Laws.EncodeRow.statement : ∀ i, Laws.EncodeRow.Statement i
  | .nop => nop
  | .wrInc ch d => wrInc ch d
  | .wrCtrl ch d => wrCtrl ch d
  | .wrPw ch d => wrPw ch d
  | .wrPhase ch d => wrPhase ch d
  | .wrSeed ch d => wrSeed ch d
  | .wrSyncph ch d => wrSyncph ch d
  | .chReset ch => chReset ch
  | .rdPhase ch => rdPhase ch
  | .rdInc ch => rdInc ch
  | .rdCtrl ch => rdCtrl ch
  | .rdPw ch => rdPw ch
  | .rdSeed ch => rdSeed ch
  | .rdSyncph ch => rdSyncph ch
  | .rdHold ch => rdHold ch
  | .rdOut ch => rdOut ch
  | .step => step
  | .allReset => allReset
  | .rdStatus => rdStatus
  | .rdId => rdId
  | .rdConfig => rdConfig
  | .clrStatus => clrStatus

/-- A legal word is covered by the row of its instruction's mnemonic. -/
theorem exists_row_of_decode {c : Command} {i : Instr} (h : decode c = .legal i) :
    ∃ r ∈ opcodeTable, r.covers c.cmd = true ∧ r.mnemonic = i.mnemonic := by
  obtain ⟨-, -, -, -, -, hwf⟩ := decode_legal_fields c i h
  obtain ⟨r, hr, hname, hcov⟩ := Laws.EncodeRow.statement i hwf
  exact ⟨r, hr, encode_cmd_of_decode h ▸ hcov, hname⟩

/-- R103, R104: the commands with a channel are those of OP 0x1 to 0x8. -/
theorem Instr.channel?_eq_of_op (i : Instr) :
    i.channel? = if 1 ≤ i.op.toNat ∧ i.op.toNat ≤ 8 then some (i.channel?.getD 0) else none := by
  cases i <;> rfl

/-- CH of a legal word is its instruction's channel, exactly for OP 0x1 to 0x8. -/
theorem channel?_of_decode {c : Command} {i : Instr} (h : decode c = .legal i) :
    i.channel? = if 1 ≤ Spec.op c ∧ Spec.op c ≤ 8 then some (Spec.chan c) else none := by
  obtain ⟨-, hop, -, hch, -, -⟩ := decode_legal_fields c i h
  rw [Spec.op_eq, Spec.chan_eq, hop, hch]
  exact i.channel?_eq_of_op

/-! ### The obligations on the decoder -/

/-- Settles O3: rows and legal words determine each other, by the row of each instruction's encoding one way and by the
fields a row fixes the other way. -/
theorem commandWordDecodesToItsUniqueRow : Obligations.CommandWordDecodesToItsUniqueRow := by
  refine ⟨opcodeTable_pairwise_disjoint, fun c => ⟨fun i hi => ⟨exists_row_of_decode hi, channel?_of_decode hi⟩,
    fun r hr hcov => decode_of_covers hr hcov, fun hnone => ?_, exists_decode_legal_iff c⟩⟩
  refine (Spec.isIllegal_iff c).2 fun i hi => ?_
  obtain ⟨r, hr, hcov, -⟩ := exists_row_of_decode hi
  exact Bool.false_ne_true ((hnone r hr).symm.trans hcov)

/-- Settles O4: each of the three breaks one of R111's conditions on the fields. -/
theorem nonzeroReservedFieldsAreIllegal : Obligations.NonzeroReservedFieldsAreIllegal := by
  refine fun c => ⟨fun hop hch => ?_, fun hrsv => ?_, fun h8 h11 hsel => ?_⟩
  · exact Spec.isIllegal_of_not_legalFields fun _ hfields => hch (hfields.ch_eq_zero hop)
  · exact Spec.isIllegal_of_not_legalFields fun hrsv0 => absurd hrsv0 hrsv
  · exact Spec.isIllegal_of_not_legalFields fun _ hfields => hsel (hfields.sel_eq_zero h8 h11)

/-- Settles O5: a selector in range by the dispatch on OP and SEL; a selector out of range breaks R111's conditions. -/
theorem selectorsNameTheReadRegisters : Obligations.SelectorsNameTheReadRegisters := by
  intro c hrsv
  constructor
  · intro hop
    have hread (k : Nat) (hsel : Spec.sel c = k) := decode_channelRead hrsv hop hsel
    refine ⟨hread 0, hread 1, hread 2, hread 3, hread 4, hread 5, hread 6, hread 7, fun hsel => ?_⟩
    exact Spec.isIllegal_of_not_legalFields fun _ hfields => absurd (hfields.sel_lt_eight hop) (Nat.not_lt.2 hsel)
  · intro hop hch
    have hread (k : Nat) (hsel : Spec.sel c = k) := decode_globalRead hrsv hop hch hsel
    refine ⟨hread 0, hread 1, hread 2, fun hsel => ?_⟩
    exact Spec.isIllegal_of_not_legalFields fun _ hfields => absurd (hfields.sel_lt_three hop) (Nat.not_lt.2 hsel)

end Sys2Proof

/-! STEP on one context (R140 to R145), in the plain arithmetic of the statements. -/

namespace Sys2Proof.Machine

/-! ### The generators in plain arithmetic -/

/-- R154. -/
theorem lcg_toNat (seed : Word) : (lcg seed).toNat = Spec.nextSeed seed := BitVec.toNat_ofNat _ _

/-- R155. -/
theorem draw_lcg_toInt (seed : Word) : (draw (lcg seed)).toInt = Spec.drawn seed := by
  rw [half_toInt, draw_toNat, lcg_toNat]
  rfl

/-- R148: the top ten bits of the phase are its quotient by `2^22`. -/
theorem sine_eq_sineLut (q : List Half) (p : Word) : sine q p = sineLut q (p.toNat / 2 ^ 22) := by
  have hlt : p.toNat / 2 ^ 22 < 2 ^ 10 := by have := p.isLt; omega
  rw [sine, BitVec.extractLsb'_toNat, Nat.shiftRight_eq_div_pow, Nat.mod_eq_of_lt hlt]

/-- A ramp over natural numbers, which the integer division computes too. -/
theorem ramp_eq_natCast (a b : Nat) : 2 * fullScale * (a : Int) / (b : Int) = ((65534 * a / b : Nat) : Int) := by
  push_cast
  rfl

/-- R151. -/
theorem pulse_eq_pulseValue (p : Nat) (ch : Channel) :
    pulse p (pulseThreshold ch.pw (transitionWidth ch.inc)) (transitionWidth ch.inc) = Spec.pulseValue p ch := by
  rw [pulse, ramp_eq_natCast, ramp_eq_natCast]
  rfl

/-- R153. -/
theorem saw_eq_sawValue (p : Nat) (ch : Channel) :
    saw p (sawPeak ch.pw (transitionWidth ch.inc)) = Spec.sawValue p ch := by
  rw [saw, ramp_eq_natCast, ramp_eq_natCast]
  rfl

theorem pulseValue_bounds (p : Nat) (ch : Channel) : -32767 ≤ Spec.pulseValue p ch ∧ Spec.pulseValue p ch ≤ 32767 :=
  pulse_eq_pulseValue p ch ▸ pulse_bounds _ _ _ (one_le_transitionWidth ch.inc)

/-- R152: the breakpoint lies inside the turn, whatever INC is. -/
theorem breakpoint_inside (ch : Channel) : 1 ≤ Spec.breakpoint ch ∧ Spec.breakpoint ch < 2 ^ 32 :=
  clamp_inside (ch.pw.toNat * 0x10000) _ (one_le_transitionWidth ch.inc) (transitionWidth_lt_turn ch.inc)

theorem sawValue_bounds (p : Word) (ch : Channel) :
    -32767 ≤ Spec.sawValue p.toNat ch ∧ Spec.sawValue p.toNat ch ≤ 32767 :=
  saw_eq_sawValue p.toNat ch ▸ saw_bounds _ _ p.isLt (breakpoint_inside ch).1 (breakpoint_inside ch).2

/-- A sample within full scale is held exactly. -/
theorem sample_toInt_of_fullScale {y : Int} (h : -32767 ≤ y ∧ y ≤ 32767) : (sample y).toInt = y :=
  sample_toInt y (by omega) h.2

/-- R149. -/
theorem one_le_width (ch : Channel) : 1 ≤ Spec.width ch := Nat.le_max_right _ _

/-- R150, R152: with a legal INC both parts of the turn are at least one transition wide. -/
theorem breakpoint_leaves_width (ch : Channel) (h : ch.inc.toNat ≤ 2 ^ 31) :
    Spec.width ch ≤ 2 ^ 31 ∧ Spec.width ch ≤ Spec.breakpoint ch ∧ Spec.breakpoint ch + Spec.width ch ≤ 2 ^ 32 := by
  have hw : Spec.width ch ≤ 2 ^ 31 := max_le h (by norm_num)
  unfold Spec.breakpoint
  omega

/-! ### The range of a legal sine table (R147) -/

/-- The one half word whose negation is not exact is the one `Build.legal` refuses. -/
theorem neg_fullScale_le_toInt {v : Half} (h : v ≠ 0x8000) : -32767 ≤ v.toInt := by
  have hne : v.toInt ≠ -32768 := fun hv => h (BitVec.eq_of_toInt_eq hv)
  have := half_range v
  omega

theorem neg_fullScale_le_quarterEntry {b : Build} (h : b.legal = true) (k : Nat) :
    -32767 ≤ (quarterEntry b.quarter k).toInt := by
  apply neg_fullScale_le_toInt
  rw [quarterEntry, List.getD_eq_getElem?_getD]
  cases hk : b.quarter[k]? with
  | none => decide
  | some v =>
    simp only [Build.legal, Bool.and_eq_true, List.all_eq_true] at h
    obtain ⟨⟨⟨-, hall⟩, -⟩, -⟩ := h
    exact bne_iff_ne.1 (hall v (List.mem_of_getElem? hk))

theorem neg_fullScale_le_halfWave {b : Build} (h : b.legal = true) (k : Nat) :
    -32767 ≤ (halfWave b.quarter k).toInt := by
  unfold halfWave
  split <;> exact neg_fullScale_le_quarterEntry h _

theorem neg_fullScale_le_sineLut {b : Build} (h : b.legal = true) (k : Nat) :
    -32767 ≤ (sineLut b.quarter k).toInt := by
  unfold sineLut
  split
  · exact neg_fullScale_le_halfWave h k
  · rw [half_neg_toInt _ (neg_fullScale_le_halfWave h _)]
    exact neg_le_neg (half_range _).2

/-! ### One STEP, followed at one context -/

/-- What STEP makes of the context `ch` at number `c`. -/
def State.stepped (s : State) (c : Nat) (ch : Channel) : Channel :=
  stepChannel s.build.quarter (ch.syncEnAt c) (s.masterInc c) ch

/-- R38, R143. -/
theorem Channel.syncEnAt_eq_true_iff (c : Nat) (ch : Channel) : ch.syncEnAt c = true ↔ Spec.synced c ch := by
  simp [Channel.syncEnAt, oddChannel, Spec.synced]

theorem Channel.syncEnAt_eq_false {c : Nat} {ch : Channel} (h : ¬Spec.synced c ch) : ch.syncEnAt c = false :=
  Bool.eq_false_iff.2 (mt (ch.syncEnAt_eq_true_iff c).1 h)

section Step
variable {s : State} {c : Nat} {ch : Channel}

theorem stepGives_stepped (h : s.chans[c]? = some ch) : Spec.stepGives s c (s.stepped c ch) := by
  refine ⟨s.sampleStep, exec_step s, ?_⟩
  have hstep := s.chan?_sampleStep c
  rwa [show s.chan? c = some ch from h] at hstep

/-- The context before an existing one exists. -/
theorem exists_master (h : s.chans[c]? = some ch) : ∃ master, s.chan? (c - 1) = some master :=
  (s.chan?_isSome_iff _).2 ((Nat.sub_le c 1).trans_lt ((s.chan?_isSome_iff c).1 ⟨ch, h⟩))

/-- R143: the wrap of the sync accumulator. -/
theorem syncAdvance_snd_iff (h : s.chans[c]? = some ch) :
    (syncAdvance (ch.syncEnAt c) (s.masterInc c) ch.syncph).2 = true ↔ Spec.syncWraps s c ch := by
  obtain ⟨master, hm⟩ := exists_master h
  rw [Spec.syncWraps, ← ch.syncEnAt_eq_true_iff, show s.chans[c - 1]? = some master from hm, s.masterInc_of c master hm]
  cases ch.syncEnAt c with
  | false => simp [syncAdvance_off]
  | true =>
    rw [syncAdvance_on_snd, decide_eq_true_iff]
    simp [turn]

/-- R142: a carry of PHASE or a sync wrap. -/
theorem newCycle_iff (h : s.chans[c]? = some ch) :
    newCycle (ch.syncEnAt c) (s.masterInc c) ch = true ↔ Spec.newCycle s c ch := by
  rw [newCycle, phaseAdvance_snd, Bool.or_eq_true, syncAdvance_snd_iff h, decide_eq_true_iff]
  rfl

/-- With sync off a new cycle is a carry. -/
theorem newCycle_iff_carry (hs : ¬Spec.synced c ch) :
    Spec.newCycle s c ch ↔ 2 ^ 32 ≤ ch.phase.toNat + ch.inc.toNat :=
  or_iff_left fun hwrap => hs hwrap.1

theorem stepped_phase_of_wrap (h : s.chans[c]? = some ch) (hw : Spec.syncWraps s c ch) :
    (s.stepped c ch).phase = 0 := by
  rw [State.stepped, stepChannel_phase, (syncAdvance_snd_iff h).2 hw, phaseAdvance_sync_fst]

theorem stepped_phase_of_not_wrap (h : s.chans[c]? = some ch) (hw : ¬Spec.syncWraps s c ch) :
    (s.stepped c ch).phase.toNat = (ch.phase.toNat + ch.inc.toNat) % 2 ^ 32 := by
  rw [State.stepped, stepChannel_phase, Bool.eq_false_iff.2 (mt (syncAdvance_snd_iff h).1 hw), phaseAdvance_off_fst,
    BitVec.toNat_add]

/-- R142, R143: both accumulators, in every mode. -/
theorem accumulatorsAdvance_stepped (h : s.chans[c]? = some ch) :
    Spec.accumulatorsAdvance s c ch (s.stepped c ch) := by
  refine ⟨stepped_phase_of_wrap h, stepped_phase_of_not_wrap h, fun hs => ?_, fun hs => ?_⟩
  · rw [State.stepped, stepChannel_syncph, Channel.syncEnAt_eq_false hs, syncAdvance_off]
  · obtain ⟨master, hm⟩ := exists_master h
    refine ⟨master, hm, ?_⟩
    rw [State.stepped, stepChannel_syncph, (ch.syncEnAt_eq_true_iff c).2 hs, syncAdvance_on_fst,
      s.masterInc_of c master hm, BitVec.toNat_add]

theorem stepped_out_of_sine (hw : ch.wave = .sine) :
    (s.stepped c ch).out = sineLut s.build.quarter ((s.stepped c ch).phase.toNat / 2 ^ 22) :=
  (stepChannel_sine _ _ _ ch hw).trans (sine_eq_sineLut _ _)

theorem stepped_out_of_pulse (hw : ch.wave = .pulse) :
    (s.stepped c ch).out.toInt = Spec.pulseValue (s.stepped c ch).phase.toNat ch := by
  rw [State.stepped, stepChannel_pulse _ _ _ ch hw, pulse_eq_pulseValue]
  exact sample_toInt_of_fullScale (pulseValue_bounds _ ch)

theorem stepped_out_of_saw (hw : ch.wave = .saw) :
    (s.stepped c ch).out.toInt = Spec.sawValue (s.stepped c ch).phase.toNat ch := by
  rw [State.stepped, stepChannel_saw _ _ _ ch hw, saw_eq_sawValue]
  exact sample_toInt_of_fullScale (sawValue_bounds _ ch)

/-- R156. -/
theorem stepped_of_noise (hw : ch.wave = .noise) :
    (s.stepped c ch).seed.toNat = Spec.nextSeed ch.seed ∧ (s.stepped c ch).out.toInt = Spec.drawn ch.seed := by
  obtain ⟨hout, hseed⟩ := stepChannel_noise s.build.quarter (ch.syncEnAt c) (s.masterInc c) ch hw
  rw [State.stepped, hout, hseed]
  exact ⟨lcg_toNat ch.seed, draw_lcg_toInt ch.seed⟩

/-- R157: a new cycle draws. -/
theorem stepped_of_random_newCycle (h : s.chans[c]? = some ch) (hw : ch.wave = .random) (hn : Spec.newCycle s c ch) :
    (s.stepped c ch).seed.toNat = Spec.nextSeed ch.seed ∧ (s.stepped c ch).out.toInt = Spec.drawn ch.seed ∧
      (s.stepped c ch).hold = (s.stepped c ch).out := by
  obtain ⟨hout, hseed, hhold⟩ :=
    stepChannel_random_draw s.build.quarter _ _ ch hw ((newCycle_iff h).2 hn)
  rw [State.stepped, hout, hseed, hhold]
  exact ⟨lcg_toNat ch.seed, draw_lcg_toInt ch.seed, rfl⟩

/-- R157: any other STEP gives the held value. -/
theorem stepped_of_random_not_newCycle (h : s.chans[c]? = some ch) (hw : ch.wave = .random)
    (hn : ¬Spec.newCycle s c ch) :
    (s.stepped c ch).seed = ch.seed ∧ (s.stepped c ch).hold = ch.hold ∧ (s.stepped c ch).out = ch.hold := by
  obtain ⟨hout, hseed, hhold⟩ :=
    stepChannel_random_hold s.build.quarter _ _ ch hw (Bool.eq_false_iff.2 (mt (newCycle_iff h).1 hn))
  exact ⟨hseed, hhold, hout⟩

/-- R40: the deterministic waveforms keep SEED. -/
theorem stepped_seed_kept (h : ch.wave ≠ .noise) (h' : ch.wave ≠ .random) : (s.stepped c ch).seed = ch.seed :=
  stepChannel_seed_kept _ _ _ ch h h'

/-- R42: RANDOM alone writes HOLD. -/
theorem stepped_hold_kept (h : ch.wave ≠ .random) : (s.stepped c ch).hold = ch.hold :=
  stepChannel_hold_kept _ _ _ ch h

/-- R159 for PULSE and SAW. -/
theorem neg_fullScale_le_stepped_out (hw : ch.wave = .pulse ∨ ch.wave = .saw) :
    -32767 ≤ (s.stepped c ch).out.toInt := by
  obtain hw | hw := hw
  · rw [stepped_out_of_pulse hw]
    exact (pulseValue_bounds _ ch).1
  · rw [stepped_out_of_saw hw]
    exact (sawValue_bounds _ ch).1

/-- R141: an unsynced context does not read the master's INC. -/
theorem stepped_eq_of_not_synced (s' : State) (hs : ¬Spec.synced c ch) (hq : s.build.quarter = s'.build.quarter) :
    s.stepped c ch = s'.stepped c ch := by
  rw [State.stepped, State.stepped, Channel.syncEnAt_eq_false hs, hq]
  rfl

/-- R141, R143: the master's INC as the context before holds it. -/
theorem masterInc_eq_of_map_inc_eq {s' : State}
    (h : (s.chans[c - 1]?).map (·.inc) = (s'.chans[c - 1]?).map (·.inc)) : s.masterInc c = s'.masterInc c := by
  have hgetD (t : State) : t.masterInc c = ((t.chans[c - 1]?).map (·.inc)).getD 0 := by
    unfold State.masterInc State.chan?
    cases t.chans[c - 1]? <;> rfl
  rw [hgetD, hgetD, h]

end Step

/-! ### The obligations on one STEP -/

/-- Settles O29: each part is the law of the context after STEP for its case. -/
theorem stepAdvancesPhaseAndFindsNewCycle : Obligations.StepAdvancesPhaseAndFindsNewCycle := by
  intro s c ch h
  exact ⟨s.stepped c ch, stepGives_stepped h, stepped_phase_of_wrap h, stepped_phase_of_not_wrap h,
    fun hw hn => (stepped_of_random_newCycle h hw hn).1, fun hw hn => (stepped_of_random_not_newCycle h hw hn).1,
    stepped_out_of_sine, stepped_out_of_pulse, stepped_out_of_saw⟩

/-- Settles O31. -/
theorem stepSineSample : Obligations.StepSineSample := by
  intro s c ch h hw
  exact ⟨s.stepped c ch, stepGives_stepped h, stepped_out_of_sine hw, stepped_seed_kept (by simp [hw]) (by simp [hw]),
    stepped_hold_kept (by simp [hw])⟩

/-- Settles O32: the sample by R151, the widths by the clamp of R150. -/
theorem stepPulseSample : Obligations.StepPulseSample := by
  intro s c ch h hw
  exact ⟨s.stepped c ch, stepGives_stepped h, stepped_seed_kept (by simp [hw]) (by simp [hw]),
    stepped_hold_kept (by simp [hw]), stepped_out_of_pulse hw, one_le_width ch, breakpoint_leaves_width ch⟩

/-- Settles O33: the sample by R153, the lengths of its segments by the clamp of R152. -/
theorem stepSawSample : Obligations.StepSawSample := by
  intro s c ch h hw
  obtain ⟨hpos, hlt⟩ := breakpoint_inside ch
  refine ⟨s.stepped c ch, stepGives_stepped h, stepped_seed_kept (by simp [hw]) (by simp [hw]),
    stepped_hold_kept (by simp [hw]), stepped_out_of_saw hw, hpos, Nat.le_sub_one_of_lt hlt, fun hinc => ?_⟩
  obtain ⟨hwidth, hfirst, hsecond⟩ := breakpoint_leaves_width ch hinc
  exact ⟨hwidth, hfirst, Nat.le_sub_of_add_le' hsecond⟩

/-- Settles O34: the draw of R156, and the accumulators, which move in every mode. -/
theorem stepNoiseSample : Obligations.StepNoiseSample := by
  intro s c ch h hw
  obtain ⟨hseed, hout⟩ := stepped_of_noise (s := s) (c := c) hw
  exact ⟨s.stepped c ch, stepGives_stepped h, hseed, hout, stepped_hold_kept (by simp [hw]),
    accumulatorsAdvance_stepped h⟩

/-- Settles O35. -/
theorem stepRandomSample : Obligations.StepRandomSample := by
  intro s c ch h hw
  exact ⟨s.stepped c ch, stepGives_stepped h, stepped_of_random_newCycle h hw, stepped_of_random_not_newCycle h hw⟩

/-- Settles O36: 16 bits bound every sample, the formulas bound PULSE and SAW, and the table bounds SINE. -/
theorem samplesStayInRange : Obligations.SamplesStayInRange := by
  intro s c ch h
  refine ⟨s.stepped c ch, stepGives_stepped h, (half_range _).1, (half_range _).2, neg_fullScale_le_stepped_out,
    fun hw hlegal => ?_⟩
  rw [stepped_out_of_sine hw]
  exact neg_fullScale_le_sineLut hlegal _

/-- Settles O43: STEP reads the context, the table and, where the context is synced, its master's INC. -/
theorem stepOfAContextReadsOnlyItAndTheMastersIncrement :
    Obligations.StepOfAContextReadsOnlyItAndTheMastersIncrement := by
  intro s s' c ch h h' hq hinc
  have heq : s.stepped c ch = s'.stepped c ch := by
    by_cases hs : Spec.synced c ch
    · rw [State.stepped, State.stepped, hq, masterInc_eq_of_map_inc_eq (hinc hs)]
    · exact stepped_eq_of_not_synced s' hs hq
  exact ⟨s.stepped c ch, stepGives_stepped h, heq ▸ stepGives_stepped h', stepChannel_inc _ _ _ ch⟩

end Sys2Proof.Machine

/-! Sequences of STEPs, followed at one context with sync off (R158, R160). -/

namespace Sys2Proof.Machine

/-! ### Counting the carries of an accumulator -/

/-- Adding an increment completes a turn exactly where the accumulator carries. -/
theorem turns_add (x i : Nat) (hi : i ≤ 2 ^ 31) :
    (x + i) / 2 ^ 32 = x / 2 ^ 32 + if 2 ^ 32 ≤ x % 2 ^ 32 + i then 1 else 0 := by
  split <;> omega

/-- The carries among the first `n` additions are the turns completed (R158). -/
theorem length_filter_carry (p i : Nat) (hp : p < 2 ^ 32) (hi : i ≤ 2 ^ 31) (n : Nat) :
    ((List.range n).filter fun k => decide (2 ^ 32 ≤ (p + k * i) % 2 ^ 32 + i)).length = (p + n * i) / 2 ^ 32 := by
  induction n with
  | zero => rw [Nat.zero_mul, Nat.add_zero, Nat.div_eq_of_lt hp, List.range_zero, List.filter_nil, List.length_nil]
  | succ n ih =>
    rw [List.range_succ, List.filter_append, List.length_append, ih, Nat.succ_mul, ← Nat.add_assoc, turns_add _ i hi]
    simp only [← List.countP_eq_length_filter, List.countP_singleton, decide_eq_true_iff]

/-- Up to the next carry after one at `a`, one more turn is complete than at `a`. -/
theorem turns_eq_of_no_carry {p i a b : Nat} (hi : i ≤ 2 ^ 31) (ha : 2 ^ 32 ≤ (p + a * i) % 2 ^ 32 + i)
    (hbetween : ∀ k, a < k → k < b → (p + k * i) % 2 ^ 32 + i < 2 ^ 32) (k : Nat) (hak : a + 1 ≤ k) (hkb : k ≤ b) :
    (p + k * i) / 2 ^ 32 = (p + a * i) / 2 ^ 32 + 1 := by
  induction k, hak using Nat.le_induction with
  | base => rw [Nat.succ_mul, ← Nat.add_assoc, turns_add _ i hi, if_pos ha]
  | succ k hak ih =>
    rw [Nat.succ_mul, ← Nat.add_assoc, turns_add _ i hi, if_neg (Nat.not_le.2 (hbetween k hak hkb)), Nat.add_zero,
      ih (Nat.le_of_succ_le hkb)]

/-- The bounds pin `d` to `m / i`, rounded down where `d * i ≤ m` and up otherwise. -/
theorem eq_floor_or_ceil {d i m : Nat} (hlo : m < (d + 1) * i) (hhi : d * i < m + i) :
    d = m / i ∨ d = (m + i - 1) / i := by
  rw [Nat.succ_mul] at hlo
  obtain hlt | hle := Nat.lt_or_ge m (d * i)
  · exact .inr (Nat.div_eq_of_lt_le (by omega) (by rw [Nat.succ_mul]; omega)).symm
  · exact .inl (Nat.div_eq_of_lt_le hle (by rw [Nat.succ_mul]; omega)).symm

/-- R158: two successive carries are the floor or the ceiling of `2^32 / i` additions apart, and at least 2. -/
theorem carry_gap {p i a b : Nat} (hi : i ≤ 2 ^ 31) (hab : a < b) (ha : 2 ^ 32 ≤ (p + a * i) % 2 ^ 32 + i)
    (hb : 2 ^ 32 ≤ (p + b * i) % 2 ^ 32 + i)
    (hbetween : ∀ k, a < k → k < b → (p + k * i) % 2 ^ 32 + i < 2 ^ 32) :
    (b - a = 2 ^ 32 / i ∨ b - a = (2 ^ 32 + i - 1) / i) ∧ 2 ≤ b - a := by
  have hturns := turns_eq_of_no_carry hi ha hbetween b hab le_rfl
  obtain ⟨d, rfl⟩ := Nat.exists_eq_add_of_lt hab
  rw [show a + d + 1 - a = d + 1 by omega]
  rw [Nat.add_assoc, Nat.add_mul, ← Nat.add_assoc] at hturns hb
  have hlo : 2 ^ 32 < (d + 1 + 1) * i := by rw [Nat.succ_mul]; omega
  have hhi : (d + 1) * i < 2 ^ 32 + i := by omega
  refine ⟨eq_floor_or_ceil hlo hhi, ?_⟩
  by_contra hd
  obtain rfl : d = 0 := by omega
  omega

/-! ### The followed context -/

section Track
variable {s : State} {c : Nat} {ch : Channel}

theorem lt_nch_of_chans (h : s.chans[c]? = some ch) : c < s.nch := (s.chan?_isSome_iff c).1 ⟨ch, h⟩

theorem chans_render_track (h : s.chans[c]? = some ch) (n : Nat) : (s.render n).chans[c]? = some (s.track c n) :=
  s.chan?_render c (lt_nch_of_chans h) n

theorem track_succ_eq_stepped (h : s.chans[c]? = some ch) (n : Nat) :
    s.track c (n + 1) = (s.render n).stepped c (s.track c n) := by
  rw [s.track_succ c (lt_nch_of_chans h), State.stepped, State.render_build]

theorem follows_track (h : s.chans[c]? = some ch) : Spec.follows s c (s.track c) :=
  ⟨chans_render_track h 0, fun n =>
    ⟨(s.render n).sampleStep, exec_step _, (s.render_succ_last n).symm,
      s.render_succ_last n ▸ chans_render_track h (n + 1)⟩⟩

/-- No STEP turns sync on. -/
theorem not_synced_track (h : s.chans[c]? = some ch) (hs : ¬Spec.synced c ch) (n : Nat) :
    ¬Spec.synced c (s.track c n) := by
  obtain ⟨-, -, -, hsync⟩ := s.track_settings c ch h n
  rwa [Spec.synced, hsync]

/-- R160: PHASE after `n` STEPs with sync off. -/
theorem track_phase_toNat (h : s.chans[c]? = some ch) (hs : ¬Spec.synced c ch) (n : Nat) :
    (s.track c n).phase.toNat = (ch.phase.toNat + n * ch.inc.toNat) % 2 ^ 32 := by
  induction n with
  | zero => rw [s.track_zero c ch h, Nat.zero_mul, Nat.add_zero, Nat.mod_eq_of_lt ch.phase.isLt]
  | succ n ih =>
    obtain ⟨hinc, -⟩ := s.track_settings c ch h n
    rw [track_succ_eq_stepped h, stepped_phase_of_not_wrap (chans_render_track h n)
      fun hwrap => not_synced_track h hs n hwrap.1, ih, hinc, Nat.mod_add_mod, Nat.succ_mul, Nat.add_assoc]

/-- SINE, PULSE and SAW give a sample that depends on the settings of a context and its new PHASE only (R144). -/
theorem stepChannel_out_eq_of_phase_eq {q : List Half} {on on' : Bool} {minc minc' : Word} {a b : Channel}
    (hinc : a.inc = b.inc) (hwave : a.wave = b.wave) (hpw : a.pw = b.pw)
    (hphase : (stepChannel q on minc a).phase = (stepChannel q on' minc' b).phase)
    (hdet : b.wave = .sine ∨ b.wave = .pulse ∨ b.wave = .saw) :
    (stepChannel q on minc a).out = (stepChannel q on' minc' b).out := by
  obtain hb | hb | hb := hdet
  · rw [stepChannel_sine _ _ _ _ hb, stepChannel_sine _ _ _ _ (hwave.trans hb), hphase]
  · rw [stepChannel_pulse _ _ _ _ hb, stepChannel_pulse _ _ _ _ (hwave.trans hb), hphase, hinc, hpw]
  · rw [stepChannel_saw _ _ _ _ hb, stepChannel_saw _ _ _ _ (hwave.trans hb), hphase, hinc, hpw]

/-- Two samples of a deterministic waveform are equal where the phases are. -/
theorem track_out_eq_of_phase_eq (h : s.chans[c]? = some ch)
    (hdet : ch.wave = .sine ∨ ch.wave = .pulse ∨ ch.wave = .saw) {m n : Nat}
    (hphase : (s.track c (m + 1)).phase = (s.track c (n + 1)).phase) :
    (s.track c (m + 1)).out = (s.track c (n + 1)).out := by
  obtain ⟨hincm, hwavem, hpwm, -⟩ := s.track_settings c ch h m
  obtain ⟨hincn, hwaven, hpwn, -⟩ := s.track_settings c ch h n
  have hlt := lt_nch_of_chans h
  rw [s.track_succ c hlt m, s.track_succ c hlt n] at hphase ⊢
  exact stepChannel_out_eq_of_phase_eq (hincm.trans hincn.symm) (hwavem.trans hwaven.symm) (hpwm.trans hpwn.symm)
    hphase (hwaven ▸ hdet)

/-- R160: a whole turn later PHASE is the same. -/
theorem track_phase_add_period (h : s.chans[c]? = some ch) (hs : ¬Spec.synced c ch) (hdvd : ch.inc.toNat ∣ 2 ^ 32)
    (n : Nat) : (s.track c (n + 2 ^ 32 / ch.inc.toNat)).phase = (s.track c n).phase := by
  apply BitVec.eq_of_toNat_eq
  rw [track_phase_toNat h hs, track_phase_toNat h hs, Nat.add_mul, Nat.div_mul_cancel hdvd, ← Nat.add_assoc,
    Nat.add_mod_right]

/-- With sync off a followed context begins a new cycle where PHASE carries. -/
theorem newCycle_track_iff (h : s.chans[c]? = some ch) (hs : ¬Spec.synced c ch) (n : Nat) :
    Spec.newCycle (s.render n) c (s.track c n) ↔ 2 ^ 32 ≤ (s.track c n).phase.toNat + ch.inc.toNat := by
  obtain ⟨hinc, -⟩ := s.track_settings c ch h n
  rw [newCycle_iff_carry (not_synced_track h hs n), hinc]

/-- R158: a carry draws. -/
theorem track_of_random_carry (h : s.chans[c]? = some ch) (hw : ch.wave = .random) (hs : ¬Spec.synced c ch) (n : Nat)
    (hcarry : 2 ^ 32 ≤ (s.track c n).phase.toNat + ch.inc.toNat) :
    (s.track c (n + 1)).seed.toNat = Spec.nextSeed (s.track c n).seed ∧
      (s.track c (n + 1)).out.toInt = Spec.drawn (s.track c n).seed ∧
      (s.track c (n + 1)).hold = (s.track c (n + 1)).out := by
  obtain ⟨-, hwave, -⟩ := s.track_settings c ch h n
  rw [track_succ_eq_stepped h]
  exact stepped_of_random_newCycle (chans_render_track h n) (hwave.trans hw) ((newCycle_track_iff h hs n).2 hcarry)

/-- R158: a STEP without a carry holds. -/
theorem track_of_random_no_carry (h : s.chans[c]? = some ch) (hw : ch.wave = .random) (hs : ¬Spec.synced c ch)
    (n : Nat) (hno : (s.track c n).phase.toNat + ch.inc.toNat < 2 ^ 32) :
    (s.track c (n + 1)).seed = (s.track c n).seed ∧ (s.track c (n + 1)).hold = (s.track c n).hold ∧
      (s.track c (n + 1)).out = (s.track c n).hold := by
  obtain ⟨-, hwave, -⟩ := s.track_settings c ch h n
  rw [track_succ_eq_stepped h]
  exact stepped_of_random_not_newCycle (chans_render_track h n) (hwave.trans hw)
    fun hn => Nat.not_le.2 hno ((newCycle_track_iff h hs n).1 hn)

end Track

/-! ### The obligations on sequences of STEPs -/

/-- Settles O38: the phase by induction over the STEPs, and the sample from the phase. -/
theorem phaseAfterStepsAndPeriod : Obligations.PhaseAfterStepsAndPeriod := by
  intro s c ch h hs _
  refine ⟨s.track c, follows_track h, track_phase_toNat h hs, fun hdvd hdet n hn => ?_⟩
  obtain ⟨k, rfl⟩ := Nat.exists_eq_add_of_le' hn
  have hphase := track_phase_add_period h hs hdvd (k + 1)
  rw [Nat.add_right_comm] at hphase ⊢
  exact track_out_eq_of_phase_eq h hdet hphase

/-- Settles O39: a draw is a carry, and the carries are counted on the phase of R160. -/
theorem randomHoldLength : Obligations.RandomHoldLength := by
  intro s c ch h hw hs _ hinc
  refine ⟨s.track c, follows_track h, track_of_random_carry h hw hs, track_of_random_no_carry h hw hs, ?_, ?_⟩
  · simp only [track_phase_toNat h hs]
    exact fun a b => carry_gap hinc
  · simp only [track_phase_toNat h hs]
    exact length_filter_carry _ _ ch.phase.isLt hinc

end Sys2Proof.Machine

/-! The words of the commands (R114): a channel command's from its match and channel, a global command's from its OP. -/

namespace Sys2Proof

/-- The channel number in place in a word whose other fields are 0 (R101). -/
theorem shiftLeft_eq_packWord {c : Nat} (hc : c < 4096) : BitVec.ofNat 32 c <<< 16 = packWord 0 c 0 := by
  apply BitVec.eq_of_toNat_eq
  rw [packWord_toNat, BitVec.toNat_shiftLeft, BitVec.toNat_ofNat, Nat.shiftLeft_eq,
    show (0 : BitVec 4).toNat = 0 from rfl]
  omega

/-- R114: a word with a channel in CH is its row's match with the channel in place. -/
theorem packWord_eq_channelWord {op sel : BitVec 4} {c : Nat} (hc : c < 4096) :
    packWord op c sel = Spec.channelWord (packWord op 0 sel) c := by
  rw [Spec.channelWord, shiftLeft_eq_packWord hc]
  show _ = (op ++ (0 : BitVec 12) ++ (0 : BitVec 12) ++ sel) |||
    ((0 : BitVec 4) ++ BitVec.ofNat 12 c ++ (0 : BitVec 12) ++ (0 : BitVec 4))
  rw [BitVec.or_append, BitVec.or_append, BitVec.or_append]
  simp [packWord]

/-- The two words of a channel command, from the match of its OP and SEL. -/
theorem command_eq_channelWord (op sel : BitVec 4) {c : Nat} {pattern d : Word} (hp : packWord op 0 sel = pattern)
    (hc : c < 4096) : Command.mk (packWord op c sel) d = ⟨Spec.channelWord pattern c, d⟩ := by
  rw [packWord_eq_channelWord hc, hp]

/-- R104, R108: the fields beside OP are 0 in a command that names no channel and selects no register, so its OP has
one legal word. -/
theorem Spec.onlyWords_of_global {o : Nat} {w : Word} (ho : o = 0 ∨ o = 9 ∨ o = 10 ∨ o = 12)
    (hw : w.toNat = o * 2 ^ 28) : Spec.onlyWords o [w] := by
  intro c hop hcmd
  refine Spec.isIllegal_of_not_legalFields fun hrsv hfields => hcmd (List.mem_singleton.2 ?_)
  have hch : Spec.chan c = 0 := hfields.ch_eq_zero (by omega)
  have hsel : Spec.sel c = 0 := hfields.sel_eq_zero (by omega) (by omega)
  apply BitVec.eq_of_toNat_eq
  rw [word_of_fields, ← Spec.op_eq, ← Spec.chan_eq, ← Spec.rsv_eq, ← Spec.sel_eq, hop, hch, hrsv, hsel, hw]
  omega

end Sys2Proof

/-! The channel writes and the resets (R200 to R210). -/

namespace Sys2Proof.Machine

/-! ### Operands -/

/-- R201: the clamp at the Nyquist increment. -/
theorem incOperand_eq (d : Word) : incOperand d = if d.toNat ≤ 2 ^ 31 then d else 0x80000000 := by
  unfold incOperand
  split
  next h => rw [Nat.min_eq_left (show d.toNat ≤ incMax from h), BitVec.ofNat_toNat, BitVec.setWidth_eq]
  next h =>
    rw [Nat.min_eq_right (show incMax ≤ d.toNat from Nat.le_of_not_le h)]
    rfl

/-- R202: `d[3]`, on an odd channel. -/
theorem syncEnOperand_eq (c : Nat) (d : Word) :
    syncEnOperand c d = decide (c % 2 = 1 ∧ d.toNat / 8 % 2 = 1) := by
  rw [syncEnOperand, oddChannel, BitVec.getLsbD, Nat.testBit_eq_decide_div_mod_eq, Bool.decide_and]
  rfl

/-- R203: the low half of the word. -/
theorem pwOperand_eq (d : Word) : pwOperand d = BitVec.ofNat 16 (d.toNat % 2 ^ 16) := by
  apply BitVec.eq_of_toNat_eq
  rw [pwOperand, BitVec.extractLsb'_toNat, Nat.shiftRight_zero, BitVec.toNat_ofNat, Nat.mod_mod]

/-! ### The operations in the statements' terms -/

/-- R200: a channel command with `c >= NCH` raises CH_RANGE and does nothing else. -/
theorem channelCommand_eq_afterError {c : Nat} {s : State} (body : Channel → Host.Outcome State Fault Refusal)
    (h : s.chans.length ≤ c) : channelCommand c s body = .next (Spec.afterError s .chRange) :=
  channelCommand_range c s body h

/-- A channel write on an existing context replaces it and keeps all else. -/
theorem writeChannel_eq_setChan {c : Nat} {s : State} {ch : Channel} (f : Channel → Channel)
    (h : s.chans[c]? = some ch) : writeChannel c s f = .next (Spec.setChan s c (f ch)) :=
  writeChannel_some c s ch f h

/-- R202: with a defined WAVE code WR_CTRL is a channel write. -/
theorem execWrCtrl_of_wave (c : Nat) {d : Word} {w : Wave} (s : State) (hw : waveOperand d = some w) :
    execWrCtrl c d s = writeChannel c s fun ch => { ch with wave := w, syncEn := syncEnOperand c d } := by
  rw [execWrCtrl, hw, writeChannel]

/-- R202: with a reserved WAVE code WR_CTRL raises BAD_VALUE where the channel exists. -/
theorem execWrCtrl_of_reserved (c : Nat) {d : Word} (s : State) (hw : waveOperand d = none) :
    execWrCtrl c d s = channelCommand c s fun _ => .next (s.raiseError .badValue) := by
  rw [execWrCtrl, hw]

/-- Writing every context by one function is mapping it over the contexts. -/
theorem mapChans_const (s : State) (f : Channel → Channel) :
    (s.mapChans fun _ => f) = { s with chans := s.chans.map f } := by
  have hmap : (s.chans.mapIdx fun _ => f) = s.chans.map f :=
    List.ext_getElem? fun k => by rw [List.getElem?_mapIdx, List.getElem?_map]
  rw [State.mapChans, hmap]

/-! ### The obligations on single commands -/

/-- Settles O17: WR_INC is a channel write of the clamped operand. -/
theorem wrIncStoresTheClampedIncrement : Obligations.WrIncStoresTheClampedIncrement := by
  refine ⟨fun c d => command_eq_channelWord 1 0 (by decide), fun c d s ch h => ?_,
    fun c d s h => channelCommand_eq_afterError _ h⟩
  rw [← incOperand_eq]
  exact writeChannel_eq_setChan _ h

/-- Settles O18: by the WAVE code, which names a waveform or is reserved. -/
theorem wrCtrlStoresWaveAndSync : Obligations.WrCtrlStoresWaveAndSync := by
  refine ⟨fun c d => command_eq_channelWord 2 0 (by decide), fun c d s ch h hd => ?_, fun c d s hc hd => ?_,
    fun c d s h => channelCommand_eq_afterError _ h⟩
  · obtain ⟨w, hw, hcode⟩ := waveOperand_some d hd
    refine ⟨w, hcode, ?_⟩
    rw [← syncEnOperand_eq]
    exact (execWrCtrl_of_wave c s hw).trans (writeChannel_eq_setChan _ h)
  · obtain ⟨ch, h⟩ := (s.chan?_isSome_iff c).2 hc
    exact (execWrCtrl_of_reserved c s (waveOperand_none d hd)).trans (channelCommand_some c s ch _ h)

/-- Settles O19: WR_PW is a channel write of the low half. -/
theorem wrPwStoresTheLowHalf : Obligations.WrPwStoresTheLowHalf := by
  refine ⟨fun c d => command_eq_channelWord 3 0 (by decide), fun c d s ch h => ?_,
    fun c d s h => channelCommand_eq_afterError _ h⟩
  rw [← pwOperand_eq]
  exact writeChannel_eq_setChan _ h

/-- Settles O20: the three are channel writes of the whole word. -/
theorem wrPhaseSeedSyncphStoreTheWord : Obligations.WrPhaseSeedSyncphStoreTheWord := by
  refine ⟨fun c d hc => ?_, fun c d s ch h => ?_, fun c d s h => ?_⟩
  · exact ⟨command_eq_channelWord 4 0 (by decide) hc, command_eq_channelWord 5 0 (by decide) hc,
      command_eq_channelWord 6 0 (by decide) hc⟩
  · exact ⟨writeChannel_eq_setChan _ h, writeChannel_eq_setChan _ h, writeChannel_eq_setChan _ h⟩
  · exact ⟨channelCommand_eq_afterError _ h, channelCommand_eq_afterError _ h, channelCommand_eq_afterError _ h⟩

/-- Settles O21: CH_RESET is a channel write of the cleared running state. -/
theorem chResetClearsTheRunningState : Obligations.ChResetClearsTheRunningState :=
  ⟨fun _ => command_eq_channelWord 7 0 (by decide), fun _ _ _ h => writeChannel_eq_setChan _ h,
    fun _ _ h => channelCommand_eq_afterError _ h⟩

/-- Settles O22: every context's running state cleared, by the only legal word of the OP. -/
theorem allResetClearsEveryChannel : Obligations.AllResetClearsEveryChannel :=
  ⟨rfl, Spec.onlyWords_of_global (by decide) rfl, fun s => congrArg _ (mapChans_const s Channel.clearRunning)⟩

/-- Settles O24: each is the only legal word of its OP; the effects are the model's own updates. -/
theorem clrStatusAndNop : Obligations.ClrStatusAndNop :=
  ⟨rfl, Spec.onlyWords_of_global (by decide) rfl, rfl, Spec.onlyWords_of_global (by decide) rfl,
    fun _ => ⟨rfl, rfl⟩⟩

/-! ### Idempotence (R86, R212) -/

/-- Performing `run` a second time leaves what the first time left. -/
def Idempotent (run : State → Host.Outcome State Fault Refusal) : Prop :=
  ∀ s, ∃ t, run s = .next t ∧ run t = .next t

/-- Recording an error keeps one recorded just before (R285). -/
theorem raiseError_raiseError (s : State) (e e' : ErrorCode) : (s.raiseError e).raiseError e' = s.raiseError e := by
  simp only [State.raiseError, Status.record_record]

/-- An update of the state that has no more effect the second time. -/
theorem idempotent_next {f : State → State} (hf : ∀ s, f (f s) = f s) : Idempotent fun s => .next (f s) :=
  fun s => ⟨f s, rfl, congrArg _ (hf s)⟩

theorem idempotent_raiseError (e : ErrorCode) : Idempotent fun s => .next (s.raiseError e) :=
  idempotent_next fun s => raiseError_raiseError s e e

/-- A channel command is idempotent where its body on an existing channel is; out of range it only raises CH_RANGE
(R200). -/
theorem idempotent_channelCommand {c : Nat} {body : State → Channel → Host.Outcome State Fault Refusal}
    (h : ∀ s ch, s.chan? c = some ch →
      ∃ t ch', body s ch = .next t ∧ t.chan? c = some ch' ∧ body t ch' = .next t) :
    Idempotent fun s => channelCommand c s (body s) := by
  intro s
  cases hs : s.chan? c with
  | none =>
    have hrange := (s.chan?_eq_none_iff c).1 hs
    refine ⟨s.raiseError .chRange, channelCommand_range c s _ hrange, ?_⟩
    exact (channelCommand_range c (s.raiseError .chRange) _ hrange).trans (congrArg _ (raiseError_raiseError s _ _))
  | some ch =>
    obtain ⟨t, ch', hfirst, ht, hsecond⟩ := h s ch hs
    exact ⟨t, (channelCommand_some c s ch _ hs).trans hfirst, (channelCommand_some c t ch' _ ht).trans hsecond⟩

/-- A channel write that stores the same the second time. -/
theorem idempotent_writeChannel (c : Nat) {f : Channel → Channel} (hf : ∀ ch, f (f ch) = f ch) :
    Idempotent fun s => writeChannel c s f := by
  refine idempotent_channelCommand fun s ch h => ⟨s.modifyChan c f, f ch, rfl, ?_, ?_⟩
  · rw [State.chan?_modifyChan, if_pos rfl, h, Option.map_some]
  · have hmod : (s.chans.modify c f).modify c f = s.chans.modify c f := by
      rw [List.modify_modify_eq, show f ∘ f = f from funext hf]
    simp only [State.modifyChan, hmod]

/-- A read leaves the register it reports (R252). -/
theorem idempotent_readChannel (c : Nat) (value : Channel → Word) : Idempotent fun s => readChannel c s value :=
  idempotent_channelCommand fun s ch h => ⟨s.writeRdata (value ch), ch, rfl, h, rfl⟩

theorem idempotent_execWrCtrl (c : Nat) (d : Word) : Idempotent (execWrCtrl c d) := by
  cases hw : waveOperand d with
  | none =>
    rw [show execWrCtrl c d = _ from funext fun s => execWrCtrl_of_reserved c s hw]
    exact idempotent_channelCommand fun s ch h =>
      ⟨s.raiseError .badValue, ch, rfl, h, congrArg _ (raiseError_raiseError s _ _)⟩
  | some w =>
    rw [show execWrCtrl c d = _ from funext fun s => execWrCtrl_of_wave c s hw]
    exact idempotent_writeChannel c fun _ => rfl

theorem idempotent_execAllReset : Idempotent execAllReset := by
  refine idempotent_next fun s => ?_
  rw [State.mapChans, State.mapChans_chans, List.mapIdx_mapIdx]
  rfl

/-- R212: an instruction other than STEP, by its shape: a channel write, a channel read, or an update of the state. -/
theorem idempotent_exec : ∀ i : Instr, i ≠ .step → Idempotent (exec i)
  | .nop, _ => idempotent_next fun _ => rfl
  | .wrInc c _, _ => idempotent_writeChannel c fun _ => rfl
  | .wrCtrl c d, _ => idempotent_execWrCtrl c d
  | .wrPw c _, _ => idempotent_writeChannel c fun _ => rfl
  | .wrPhase c _, _ => idempotent_writeChannel c fun _ => rfl
  | .wrSeed c _, _ => idempotent_writeChannel c fun _ => rfl
  | .wrSyncph c _, _ => idempotent_writeChannel c fun _ => rfl
  | .chReset c, _ => idempotent_writeChannel c fun _ => rfl
  | .rdPhase c, _ => idempotent_readChannel c _
  | .rdInc c, _ => idempotent_readChannel c _
  | .rdCtrl c, _ => idempotent_readChannel c _
  | .rdPw c, _ => idempotent_readChannel c _
  | .rdSeed c, _ => idempotent_readChannel c _
  | .rdSyncph c, _ => idempotent_readChannel c _
  | .rdHold c, _ => idempotent_readChannel c _
  | .rdOut c, _ => idempotent_readChannel c _
  | .step, h => absurd rfl h
  | .allReset, _ => idempotent_execAllReset
  | .rdStatus, _ => idempotent_next fun _ => rfl
  | .rdId, _ => idempotent_next fun _ => rfl
  | .rdConfig, _ => idempotent_next fun _ => rfl
  | .clrStatus, _ => idempotent_next fun _ => rfl

/-- Settles O47: a legal word by its instruction, an illegal word by the error it records. -/
theorem everyCommandButStepIsIdempotent : Obligations.EveryCommandButStepIsIdempotent := by
  intro c s hstep
  cases hdec : decode c with
  | legal i =>
    obtain ⟨t, hfirst, hsecond⟩ := idempotent_exec i (fun hi => hstep (hi ▸ hdec)) s
    exact ⟨t, (perform_legal c i s hdec).trans hfirst, (perform_legal c i t hdec).trans hsecond⟩
  | illegal why =>
    obtain ⟨t, hfirst, hsecond⟩ := idempotent_raiseError .illegalCmd s
    exact ⟨t, (perform_illegal c why s hdec).trans hfirst, (perform_illegal c why t hdec).trans hsecond⟩

end Sys2Proof.Machine

/-! The reads (R240 to R251). -/

namespace Sys2Proof

/-- R107: OP 0xB has three legal words, told apart by SEL. -/
theorem Spec.onlyWords_globalRead : Spec.onlyWords 11 [0xB0000000, 0xB0000001, 0xB0000002] := by
  intro c hop hcmd
  refine Spec.isIllegal_of_not_legalFields fun hrsv hfields => hcmd ?_
  have hch : Spec.chan c = 0 := hfields.ch_eq_zero (by omega)
  have hsel : Spec.sel c < 3 := hfields.sel_lt_three hop
  have hword : c.cmd.toNat = 11 * 2 ^ 28 + Spec.sel c := by
    rw [word_of_fields, ← Spec.op_eq, ← Spec.chan_eq, ← Spec.rsv_eq, ← Spec.sel_eq, hop, hch, hrsv]
    omega
  simp only [List.mem_cons, List.not_mem_nil, or_false, ← BitVec.toNat_inj, hword]
  generalize Spec.sel c = sel at hsel
  interval_cases sel <;> decide

end Sys2Proof

namespace Sys2Proof.Machine

/-! ### The values read, in plain arithmetic -/

/-- Two fields side by side: the high one scaled past the low one. -/
theorem append_toNat {m n : Nat} (hi : BitVec m) (lo : BitVec n) :
    (hi ++ lo).toNat = lo.toNat + 2 ^ n * hi.toNat := by
  rw [BitVec.toNat_append, ← Nat.shiftLeft_add_eq_or_of_lt lo.isLt, Nat.shiftLeft_eq, Nat.mul_comm, Nat.add_comm]

/-- R243: WAVE in bits 2..0 and, where the context is synced, bit 3. -/
theorem Channel.ctrlAt_toNat (c : Nat) (ch : Channel) :
    (ch.ctrlAt c).toNat = ch.wave.code.toNat + (if c % 2 = 1 ∧ ch.syncEn = true then 8 else 0) := by
  rw [Channel.ctrlAt, BitVec.toNat_setWidth_of_le (by decide), append_toNat, BitVec.toNat_ofBool]
  by_cases hs : c % 2 = 1 ∧ ch.syncEn = true
  · rw [(ch.syncEnAt_eq_true_iff c).2 hs, if_pos hs]
    rfl
  · rw [Channel.syncEnAt_eq_false hs, if_neg hs]
    rfl

/-- R12: zero-extension keeps the unsigned value. -/
theorem zext32_toNat (v : Half) : (zext32 v).toNat = v.toNat := BitVec.toNat_setWidth_of_le (by decide)

/-- R12: sign-extension keeps the signed value. -/
theorem sext32_toInt (v : Half) : (sext32 v).toInt = v.toInt := BitVec.toInt_signExtend_of_le (by decide)

/-- R46: ERR in bit 0, ECODE in bits 7..4. -/
theorem Status.word_toNat (st : Status) :
    st.word.toNat = (if st.err then 1 else 0) + 2 ^ 4 * st.ecode.code.toNat := by
  rw [Status.word, BitVec.toNat_setWidth_of_le (by decide), append_toNat, append_toNat, BitVec.toNat_ofBool,
    show (0 : BitVec 3).toNat = 0 from rfl, Bool.toNat, Bool.cond_eq_ite]
  omega

/-- R53: NCH, LUT_BITS and PHASE_BITS in their fields. -/
theorem State.configWord_toNat (s : State) :
    s.configWord.toNat = s.chans.length % 2 ^ 16 + 2 ^ 16 * 10 + 2 ^ 20 * 32 := by
  rw [State.configWord, BitVec.toNat_setWidth_of_le (by decide), append_toNat, append_toNat, BitVec.toNat_ofNat,
    BitVec.toNat_ofNat, BitVec.toNat_ofNat, State.nch, lutBits, phaseBits]
  omega

/-! ### The channel reads as one operation -/

/-- A channel read on an existing context writes its value to RDATA and keeps all else. -/
theorem readChannel_eq_rdata {c : Nat} {s : State} {ch : Channel} (value : Channel → Word)
    (h : s.chans[c]? = some ch) : readChannel c s value = .next { s with rdata := value ch } :=
  readChannel_some c s ch value h

/-- R240: a read command that names a channel is `readChannel` of some value of the context. -/
theorem exists_exec_eq_readChannel {i : Instr} {c : Nat} (hread : i.isRead = true) (hch : i.channel? = some c) :
    ∃ value, ∀ s, exec i s = readChannel c s value := by
  cases i with
  | rdPhase | rdInc | rdCtrl | rdPw | rdSeed | rdSyncph | rdHold | rdOut =>
    cases hch
    exact ⟨_, fun _ => rfl⟩
  | rdStatus | rdId | rdConfig => cases hch
  | nop | wrInc | wrCtrl | wrPw | wrPhase | wrSeed | wrSyncph | chReset | step | allReset | clrStatus => cases hread

/-! ### The obligations on the reads -/

/-- Settles O25: each is `readChannel` of its register; CTRL, PW, HOLD and OUT by the value of their extended words. -/
theorem channelReadsReturnTheRegister : Obligations.ChannelReadsReturnTheRegister := by
  refine ⟨fun c hc => ?words, fun c s ch h => ?values, fun i c s hread hch hrange => ?range⟩
  case words =>
    have hword (sel : BitVec 4) {pattern : Word} (hp : packWord 8 0 sel = pattern) :=
      command_eq_channelWord 8 sel (d := 0) hp hc
    exact ⟨hword 0 (by decide), hword 1 (by decide), hword 2 (by decide), hword 3 (by decide), hword 4 (by decide),
      hword 5 (by decide), hword 6 (by decide), hword 7 (by decide)⟩
  case values =>
    have hread (value : Channel → Word) := readChannel_eq_rdata value h
    exact ⟨hread _, hread _, ⟨ch.ctrlAt c, ch.ctrlAt_toNat c, hread _⟩, ⟨zext32 ch.pw, zext32_toNat ch.pw, hread _⟩,
      hread _, hread _, ⟨sext32 ch.hold, sext32_toInt ch.hold, hread _⟩, ⟨sext32 ch.out, sext32_toInt ch.out, hread _⟩⟩
  case range =>
    obtain ⟨value, hexec⟩ := exists_exec_eq_readChannel hread hch
    exact (hexec s).trans (channelCommand_eq_afterError _ hrange)

/-- Settles O26: the three legal words of the OP, and the value of each word read. -/
theorem globalReadsReturnTheRegister : Obligations.GlobalReadsReturnTheRegister :=
  ⟨rfl, rfl, rfl, Spec.onlyWords_globalRead, fun s => ⟨⟨s.status.word, s.status.word_toNat, rfl⟩, rfl,
    s.configWord, s.configWord_toNat, rfl⟩⟩

end Sys2Proof.Machine

/-! Errors (R280 to R290): which command raises which, and which error STATUS keeps. -/

namespace Sys2Proof.Machine

/-! ### The three causes, in the order of R284 -/

/-- R111, R112: a word that no row of the table covers is illegal. -/
theorem isIllegal_of_not_covers {c : Command} (h : ∀ r ∈ opcodeTable, r.covers c.cmd = false) : Spec.isIllegal c := by
  obtain ⟨-, hword⟩ := commandWordDecodesToItsUniqueRow
  obtain ⟨-, -, hillegal, -⟩ := hword c
  exact hillegal h

theorem perform_of_isIllegal {c : Command} (s : State) (h : Spec.isIllegal c) :
    perform c s = .next (Spec.afterError s .illegalCmd) := by
  obtain ⟨why, hwhy⟩ := h
  exact perform_illegal c why s hwhy

/-- R200: every instruction that names a channel checks it before anything else. -/
theorem exists_exec_eq_channelCommand {i : Instr} {n : Nat} (h : i.channel? = some n) :
    ∃ body : State → Channel → Host.Outcome State Fault Refusal, ∀ s, exec i s = channelCommand n s (body s) := by
  cases i with
  | nop | step | allReset | rdStatus | rdId | rdConfig | clrStatus => cases h
  | wrInc | wrCtrl | wrPw | wrPhase | wrSeed | wrSyncph | chReset | rdPhase | rdInc | rdCtrl | rdPw | rdSeed | rdSyncph
  | rdHold | rdOut =>
    cases h
    exact ⟨_, fun _ => rfl⟩

theorem exec_of_chRange {i : Instr} {n : Nat} {s : State} (hch : i.channel? = some n) (hn : s.chans.length ≤ n) :
    exec i s = .next (Spec.afterError s .chRange) := by
  obtain ⟨body, hexec⟩ := exists_exec_eq_channelCommand hch
  exact (hexec s).trans (channelCommand_eq_afterError (body s) hn)

theorem exec_wrCtrl_of_badValue {n : Nat} {d : Word} {s : State} (hn : n < s.chans.length) (hd : 5 ≤ d.toNat % 8) :
    exec (.wrCtrl n d) s = .next (Spec.afterError s .badValue) := by
  obtain ⟨-, -, hbad, -⟩ := wrCtrlStoresWaveAndSync
  exact hbad n d s hn hd

/-! ### The commands that complete -/

/-- The outcome is a next state whose STATUS is that of `s`. -/
def KeepsStatus (s : State) (o : Host.Outcome State Fault Refusal) : Prop :=
  ∃ t, o = .next t ∧ t.status = s.status

theorem keepsStatus_writeChannel {c : Nat} {s : State} (f : Channel → Channel) (hc : c < s.chans.length) :
    KeepsStatus s (writeChannel c s f) := by
  obtain ⟨-, hwrite⟩ | ⟨hrange, -⟩ := writeChannel_cases c s f
  · exact ⟨_, hwrite, rfl⟩
  · exact absurd hc (Nat.not_lt.2 hrange)

theorem keepsStatus_readChannel {c : Nat} {s : State} (value : Channel → Word) (hc : c < s.chans.length) :
    KeepsStatus s (readChannel c s value) := by
  obtain ⟨_, -, hread⟩ | ⟨hrange, -⟩ := readChannel_cases c s value
  · exact ⟨_, hread, rfl⟩
  · exact absurd hc (Nat.not_lt.2 hrange)

theorem keepsStatus_execWrCtrl {c : Nat} {d : Word} {s : State} (hc : c < s.chans.length) (hd : d.toNat % 8 < 5) :
    KeepsStatus s (execWrCtrl c d s) := by
  obtain ⟨w, hw, -⟩ := waveOperand_some d hd
  rw [execWrCtrl_of_wave c s hw]
  exact keepsStatus_writeChannel _ hc

/-- R282: a command with neither a channel nor a WAVE code out of range raises no error. -/
theorem keepsStatus_exec {i : Instr} {s : State} (hi : i ≠ .clrStatus)
    (hch : ∀ n, i.channel? = some n → n < s.chans.length) (hval : ∀ n d, i = .wrCtrl n d → d.toNat % 8 < 5) :
    KeepsStatus s (exec i s) := by
  cases i with
  | nop | step | allReset | rdStatus | rdId | rdConfig => exact ⟨_, rfl, rfl⟩
  | wrInc | wrPw | wrPhase | wrSeed | wrSyncph | chReset => exact keepsStatus_writeChannel _ (hch _ rfl)
  | rdPhase | rdInc | rdCtrl | rdPw | rdSeed | rdSyncph | rdHold | rdOut =>
    exact keepsStatus_readChannel _ (hch _ rfl)
  | wrCtrl n d => exact keepsStatus_execWrCtrl (hch n rfl) (hval n d rfl)
  | clrStatus => exact absurd rfl hi

/-! ### STATUS while ERR is 1 -/

/-- R283, R285: an error after the first is not recorded. -/
theorem keepsStatus_afterError {s : State} (e : ErrorCode) (herr : s.status.err = true) :
    KeepsStatus s (.next (Spec.afterError s e)) := ⟨_, rfl, if_pos herr⟩

/-- R285 for one instruction: it fails by its channel, by its WAVE code, or not at all. -/
theorem keepsStatus_exec_of_err {i : Instr} {s : State} (herr : s.status.err = true) (hi : i ≠ .clrStatus) :
    KeepsStatus s (exec i s) := by
  by_cases hch : ∀ n, i.channel? = some n → n < s.chans.length
  · by_cases hval : ∀ n d, i = .wrCtrl n d → d.toNat % 8 < 5
    · exact keepsStatus_exec hi hch hval
    · push Not at hval
      obtain ⟨n, d, rfl, hd⟩ := hval
      exact exec_wrCtrl_of_badValue (hch n rfl) hd ▸ keepsStatus_afterError _ herr
  · push Not at hch
    obtain ⟨n, hn, hrange⟩ := hch
    exact exec_of_chRange hn hrange ▸ keepsStatus_afterError _ herr

/-- R285 for one command word. -/
theorem keepsStatus_perform_of_err {c : Command} {s : State} (herr : s.status.err = true)
    (hc : decode c ≠ .legal .clrStatus) : KeepsStatus s (perform c s) := by
  cases hdec : decode c with
  | legal i => exact perform_legal c i s hdec ▸ keepsStatus_exec_of_err herr fun hi => hc (hi ▸ hdec)
  | illegal why => exact perform_of_isIllegal s ⟨why, hdec⟩ ▸ keepsStatus_afterError _ herr

/-- R331: the run of a sequence ends where the run of its tail from the next state ends. -/
theorem observe_cons_final {c : Command} {s t : State} (cs : List Command) (h : perform c s = .next t) :
    (observe (c :: cs) s).final = (observe cs t).final := by
  rw [observe, h]

/-- R285 over a sequence of commands. -/
theorem observe_final_status_of_err (cs : List Command) (s : State) (herr : s.status.err = true)
    (hcs : ∀ c ∈ cs, decode c ≠ .legal .clrStatus) : (observe cs s).final.status = s.status := by
  induction cs generalizing s with
  | nil => rfl
  | cons c cs ih =>
    obtain ⟨hc, hcs⟩ := List.forall_mem_cons.1 hcs
    obtain ⟨t, hperform, hstatus⟩ := keepsStatus_perform_of_err herr hc
    rw [observe_cons_final cs hperform, ih t (hstatus ▸ herr) hcs, hstatus]

/-! ### The obligations on errors -/

/-- Settles O14: the three causes, the decoder's before the channel's before the operand's. -/
theorem failingCommandsRecordOneErrorAndNothingElse : Obligations.FailingCommandsRecordOneErrorAndNothingElse :=
  ⟨fun _ s hillegal => perform_of_isIllegal s hillegal,
    fun c i _ s hdec hch hn => (perform_legal c i s hdec).trans (exec_of_chRange hch hn),
    fun c _ _ s hdec hn hd => (perform_legal c _ s hdec).trans (exec_wrCtrl_of_badValue hn hd)⟩

/-- Settles O15: the three causes, and no other command touches STATUS but CLR_STATUS. -/
theorem errorTableByCommand : Obligations.ErrorTableByCommand := by
  refine ⟨fun c s hnone => perform_of_isIllegal s (isIllegal_of_not_covers hnone),
    fun i s n hch hn => exec_of_chRange hch hn, fun n d s hn hd => exec_wrCtrl_of_badValue hn hd,
    fun i s hch hval => ?completes⟩
  case completes =>
    split
    next hi =>
      subst hi
      exact ⟨s.clearStatus, rfl, rfl⟩
    next hi => exact keepsStatus_exec hi hch hval

/-- Settles O16: no command but CLR_STATUS changes STATUS while ERR is 1, so none in a sequence does, by induction. -/
theorem firstErrorIsKept : Obligations.FirstErrorIsKept := by
  refine ⟨fun c s t herr hc hperform => ?_, observe_final_status_of_err⟩
  obtain ⟨t', hperform', hstatus⟩ := keepsStatus_perform_of_err herr hc
  obtain rfl : t = t' := Host.Outcome.next.inj (hperform.symm.trans hperform')
  exact hstatus

end Sys2Proof.Machine

/-! The reset state is silent (R322), and stays so until the host writes INC, CTRL or PHASE. -/

namespace Sys2Proof.Machine

/-! ### A silent context -/

/-- R322: SINE mode at the table's entry 0, with nothing to move PHASE away from it. -/
structure Channel.Silent (ch : Channel) : Prop where
  wave  : ch.wave = .sine
  inc   : ch.inc = 0
  phase : ch.phase = 0
  out   : ch.out = 0

theorem Channel.Silent.resetAt (noiseSeed : Word) (c : Nat) : (Channel.resetAt noiseSeed c).Silent :=
  ⟨rfl, rfl, rfl, rfl⟩

theorem Channel.Silent.clearRunning {ch : Channel} (h : ch.Silent) : ch.clearRunning.Silent :=
  ⟨h.wave, h.inc, rfl, rfl⟩

/-- R142: an accumulator at 0 with increment 0 stays at 0, whether or not the sync accumulator wraps. -/
theorem phaseAdvance_zero_fst (syncwrap : Bool) : (phaseAdvance 0 0 syncwrap).1 = 0 := by
  cases syncwrap with
  | false => exact phaseAdvance_off_fst 0 0
  | true => exact phaseAdvance_sync_fst 0 0

/-- R146, R147: every allowed table begins with 0. -/
theorem sine_zero_of_legal {b : Build} (h : b.legal = true) : sine b.quarter 0 = 0 := by
  simp only [Build.legal, Bool.and_eq_true, beq_iff_eq] at h
  obtain ⟨⟨-, hzero⟩, -⟩ := h
  exact hzero

/-- R322: STEP keeps a context silent, whatever its master does. -/
theorem silent_stepChannel {b : Build} {ch : Channel} (hb : b.legal = true) (h : ch.Silent) (syncOn : Bool)
    (masterInc : Word) : (stepChannel b.quarter syncOn masterInc ch).Silent := by
  have hphase : (stepChannel b.quarter syncOn masterInc ch).phase = 0 := by
    rw [stepChannel_phase, h.phase, h.inc, phaseAdvance_zero_fst]
  exact
    { wave := (stepChannel_wave _ _ _ ch).trans h.wave
      inc := (stepChannel_inc _ _ _ ch).trans h.inc
      phase := hphase
      out := by rw [stepChannel_sine _ _ _ ch h.wave, hphase, sine_zero_of_legal hb] }

/-! ### A silent state -/

/-- The invariant of R322: `m` silent contexts, and an allowed table for STEP to read. -/
structure State.Silent (m : Nat) (s : State) : Prop where
  nch   : s.nch = m
  build : s.build.legal = true
  chans : ∀ c ch, s.chan? c = some ch → ch.Silent

section Silent
variable {m : Nat} {s : State}

theorem State.Silent.resetWith (m : Nat) {b : Build} (hb : b.legal = true) : (State.resetWith m b).Silent m where
  nch := State.nch_resetWith m b
  build := hb
  chans c ch hc := by
    rw [State.chan?_resetWith] at hc
    obtain ⟨-, hch⟩ := Option.ite_none_right_eq_some.1 hc
    cases hch
    exact Channel.Silent.resetAt _ c

theorem State.Silent.writeRdata (h : s.Silent m) (v : Word) : (s.writeRdata v).Silent m := ⟨h.nch, h.build, h.chans⟩

theorem State.Silent.raiseError (h : s.Silent m) (e : ErrorCode) : (s.raiseError e).Silent m :=
  ⟨h.nch, h.build, h.chans⟩

theorem State.Silent.clearStatus (h : s.Silent m) : s.clearStatus.Silent m := ⟨h.nch, h.build, h.chans⟩

/-- An update of every context that keeps each one silent. -/
theorem State.Silent.mapChans (h : s.Silent m) {g : Nat → Channel → Channel}
    (hg : ∀ c ch, ch.Silent → (g c ch).Silent) : (s.mapChans g).Silent m where
  nch := (s.nch_mapChans g).trans h.nch
  build := h.build
  chans c ch hc := by
    rw [State.chan?_mapChans] at hc
    obtain ⟨old, hold, rfl⟩ := Option.map_eq_some_iff.1 hc
    exact hg c old (h.chans c old hold)

/-- A write of one context that keeps it silent. -/
theorem State.Silent.modifyChan (h : s.Silent m) (n : Nat) {f : Channel → Channel}
    (hf : ∀ ch, ch.Silent → (f ch).Silent) : (s.modifyChan n f).Silent m where
  nch := (s.nch_modifyChan n f).trans h.nch
  build := h.build
  chans c ch hc := by
    rw [State.chan?_modifyChan] at hc
    split at hc
    · obtain ⟨old, hold, rfl⟩ := Option.map_eq_some_iff.1 hc
      exact hf old (h.chans c old hold)
    · exact h.chans c ch hc

theorem State.Silent.sampleStep (h : s.Silent m) : s.sampleStep.Silent m :=
  h.mapChans fun _ _ hch => silent_stepChannel h.build hch _ _

/-- R322: the OUT vector of a silent state. -/
theorem State.Silent.outs_eq (h : s.Silent m) : s.outs = List.replicate m 0 := by
  refine List.eq_replicate_iff.2 ⟨(List.length_map _).trans h.nch, fun v hv => ?_⟩
  obtain ⟨ch, hch, rfl⟩ := List.mem_map.1 hv
  obtain ⟨c, hc⟩ := List.mem_iff_getElem?.1 hch
  exact (h.chans c ch hc).out

/-! ### The commands that keep a state silent -/

/-- The outcome is a silent next state. -/
def StaysSilent (m : Nat) (o : Host.Outcome State Fault Refusal) : Prop := ∃ t, o = .next t ∧ t.Silent m

theorem staysSilent_writeChannel (h : s.Silent m) (n : Nat) {f : Channel → Channel}
    (hf : ∀ ch, ch.Silent → (f ch).Silent) : StaysSilent m (writeChannel n s f) := by
  obtain ⟨-, hwrite⟩ | ⟨-, hrange⟩ := writeChannel_cases n s f
  · exact ⟨_, hwrite, h.modifyChan n hf⟩
  · exact ⟨_, hrange, h.raiseError _⟩

theorem staysSilent_readChannel (h : s.Silent m) (n : Nat) (value : Channel → Word) :
    StaysSilent m (readChannel n s value) := by
  obtain ⟨ch, -, hread⟩ | ⟨-, hrange⟩ := readChannel_cases n s value
  · exact ⟨_, hread, h.writeRdata _⟩
  · exact ⟨_, hrange, h.raiseError _⟩

/-- R322: only WR_INC, WR_CTRL and WR_PHASE can end the silence. -/
theorem staysSilent_exec {i : Instr} (h : s.Silent m)
    (hi : ∀ n d, i ≠ .wrInc n d ∧ i ≠ .wrCtrl n d ∧ i ≠ .wrPhase n d) : StaysSilent m (exec i s) := by
  cases i with
  | nop => exact ⟨_, rfl, h⟩
  | wrInc n d | wrCtrl n d | wrPhase n d =>
    obtain ⟨hinc, hctrl, hphase⟩ := hi n d
    contradiction
  | wrPw n | wrSeed n | wrSyncph n =>
    exact staysSilent_writeChannel h n fun _ hch => ⟨hch.wave, hch.inc, hch.phase, hch.out⟩
  | chReset n => exact staysSilent_writeChannel h n fun _ hch => hch.clearRunning
  | rdPhase n | rdInc n | rdCtrl n | rdPw n | rdSeed n | rdSyncph n | rdHold n | rdOut n =>
    exact staysSilent_readChannel h n _
  | step => exact ⟨_, rfl, h.sampleStep⟩
  | allReset => exact ⟨_, rfl, h.mapChans fun _ _ hch => hch.clearRunning⟩
  | rdStatus | rdId | rdConfig => exact ⟨_, rfl, h.writeRdata _⟩
  | clrStatus => exact ⟨_, rfl, h.clearStatus⟩

/-- R322: the word is none of WR_INC, WR_CTRL and WR_PHASE. -/
def KeepsSilence (c : Command) : Prop :=
  ∀ n d, decode c ≠ .legal (.wrInc n d) ∧ decode c ≠ .legal (.wrCtrl n d) ∧ decode c ≠ .legal (.wrPhase n d)

/-- R322 for one command word. -/
theorem staysSilent_perform {c : Command} (h : s.Silent m) (hc : KeepsSilence c) : StaysSilent m (perform c s) := by
  cases hdec : decode c with
  | legal i =>
    rw [perform_legal c i s hdec]
    exact staysSilent_exec h (by simpa only [KeepsSilence, hdec, ne_eq, Decoded.legal.injEq] using hc)
  | illegal why => exact ⟨_, perform_illegal c why s hdec, h.raiseError _⟩

/-- R331: the frames of a sequence are OUT after its first command, if that is STEP, and then the frames of its tail. -/
theorem observe_cons_frames {c : Command} {t : State} (cs : List Command) (h : perform c s = .next t) :
    (observe (c :: cs) s).frames =
      if performsStep c then t.outs :: (observe cs t).frames else (observe cs t).frames := by
  rw [observe, h]

/-- R322 over a sequence of commands: every frame is zeros, and the final state is silent. -/
theorem State.Silent.observe (h : s.Silent m) (cs : List Command) (hcs : ∀ c ∈ cs, KeepsSilence c) :
    (∀ f ∈ (observe cs s).frames, f = List.replicate m 0) ∧ (observe cs s).final.Silent m := by
  induction cs generalizing s with
  | nil => exact ⟨fun _ hf => absurd hf List.not_mem_nil, h⟩
  | cons c cs ih =>
    obtain ⟨hc, hcs⟩ := List.forall_mem_cons.1 hcs
    obtain ⟨t, hperform, ht⟩ := staysSilent_perform h hc
    obtain ⟨hframes, hfinal⟩ := ih ht hcs
    rw [observe_cons_frames cs hperform, observe_cons_final cs hperform]
    refine ⟨?_, hfinal⟩
    split
    · exact List.forall_mem_cons.2 ⟨ht.outs_eq, hframes⟩
    · exact hframes

end Silent

/-! ### The obligation on the reset state -/

/-- Settles O42: the reset state is silent, and every command of the sequence keeps it so. -/
theorem resetStateIsSilent : Obligations.ResetStateIsSilent := by
  intro m b cs hb hcs
  obtain ⟨hframes, hfinal⟩ := (State.Silent.resetWith m hb).observe cs hcs
  refine ⟨hframes, fun n hn => ?_⟩
  obtain ⟨ch, hch⟩ := (State.chan?_isSome_iff _ n).2 (hfinal.nch.symm ▸ hn)
  have hsilent := hfinal.chans n ch hch
  exact ⟨ch, hch, hsilent.wave, hsilent.inc, hsilent.phase, hsilent.out⟩

end Sys2Proof.Machine

/-! Encoding and decoding are inverse (R109, R111, R114), and the carriage of a word as bytes (R82). -/

namespace Sys2Proof

/-- The dispatch on an instruction's own fields answers the instruction (R102, R106 to R108). -/
theorem decodeOp_of_instr (i : Instr) :
    decodeOp i.op.toNat (i.channel?.getD 0) i.sel.toNat (i.data?.getD 0) = .legal i := by
  cases i <;> rfl

/-- R103: the channel of a well-formed instruction fits CH. -/
theorem Instr.WellFormed.channel_lt {i : Instr} {c : Nat} (h : i.WellFormed) (hc : i.channel? = some c) : c < 4096 := by
  rw [Instr.WellFormed, Instr.wellFormed, hc] at h
  exact of_decide_eq_true h

/-- R101: CH holds the channel of a well-formed instruction unchanged. -/
theorem Instr.WellFormed.channel_mod {i : Instr} (h : i.WellFormed) :
    i.channel?.getD 0 % 4096 = i.channel?.getD 0 := by
  cases hc : i.channel? with
  | none => rfl
  | some c => exact Nat.mod_eq_of_lt (h.channel_lt hc)

/-- R114: each instruction's row, by its mnemonic, OP and SEL. -/
theorem row_mem_opcodeTable (i : Instr) :
    ⟨i.mnemonic, packWord i.op 0 i.sel, if i.channel?.isSome then 0xF000FFFF else 0xFFFFFFFF⟩ ∈ opcodeTable := by
  cases i <;> simp only [Instr.mnemonic, Instr.op, Instr.sel, Instr.channel?, Option.isSome] <;> decide

/-- R82: byte `i` of a word, by its value. -/
theorem extractByte_toNat (w : Word) (start : Nat) :
    (w.extractLsb' start 8).toNat = w.toNat / 2 ^ start % 2 ^ 8 := by
  rw [BitVec.extractLsb'_toNat, Nat.shiftRight_eq_div_pow]

/-- Four bytes side by side, by their values. -/
theorem wordOfBytes_toNat (b0 b1 b2 b3 : Byte) :
    (wordOfBytes b0 b1 b2 b3).toNat =
      b0.toNat + 2 ^ 8 * b1.toNat + 2 ^ 16 * b2.toNat + 2 ^ 24 * b3.toNat := by
  rw [wordOfBytes, Machine.append_toNat, Machine.append_toNat, Machine.append_toNat]
  ring

/-! ### The obligations on encoding -/

/-- Settles O1: the fields of the packed word are the instruction's own, and the dispatch on these answers it. -/
theorem decodeOfEncodeIsTheInstruction : Obligations.DecodeOfEncodeIsTheInstruction := by
  intro i hwf
  have hrsv : rsvField (encode i).cmd = 0 := rsvField_packWord i.op _ i.sel
  rw [decode_of_rsvField hrsv, encode, opField_packWord, chField_packWord, selField_packWord, hwf.channel_mod]
  exact decodeOp_of_instr i

/-- Settles O2: from the fields of a legal word; WDATA is the data operand whole. -/
theorem encodeOfDecodeIsTheWord : Obligations.EncodeOfDecodeIsTheWord := by
  intro c i h
  obtain ⟨-, -, -, -, hdata, hwf⟩ := decode_legal_fields c i h
  refine ⟨hwf, encode_cmd_of_decode h, fun d hd => ⟨hdata d hd, ?_⟩⟩
  rw [encode, hd, Option.getD_some, hdata d hd]

/-- Settles O6: the row is the one of the instruction's OP and SEL; the word differs from its match in CH alone. -/
theorem encodedWordIsItsRowsMatchAndChannel : Obligations.EncodedWordIsItsRowsMatchAndChannel := by
  refine fun i hwf => ⟨_, row_mem_opcodeTable i, rfl, fun c hc => ⟨?_, by rw [hc]; rfl⟩, fun hc => ⟨?_, by rw [hc]; rfl⟩⟩
  · rw [encode, hc, Option.getD_some]
    exact packWord_eq_channelWord (hwf.channel_lt hc)
  · rw [encode, hc, Option.getD_none]

/-- Settles O7, by running the decoder on each word. -/
theorem wordsOfTheSpecDecode : Obligations.WordsOfTheSpecDecode := by
  unfold Obligations.WordsOfTheSpecDecode
  decide

/-- Settles O54: the value of each byte, and of the word the four make up. -/
theorem wordsAreCarriedLittleEndian : Obligations.WordsAreCarriedLittleEndian := by
  intro w
  have hbyte0 : (w.extractLsb' 0 8).toNat = w.toNat % 2 ^ 8 := by rw [extractByte_toNat, pow_zero, Nat.div_one]
  refine ⟨_, _, _, _, rfl, BitVec.eq_of_toNat_eq ?_, hbyte0, extractByte_toNat w 8, extractByte_toNat w 16,
    extractByte_toNat w 24⟩
  rw [wordOfBytes_toNat, hbyte0, extractByte_toNat, extractByte_toNat, extractByte_toNat]
  have := w.isLt
  omega

end Sys2Proof

/-! The host side (R117, R118): data operands, and the increment of a frequency. -/

namespace Sys2Proof.Machine

/-- `round(n / d)` in integers is the floor of the rational plus one half (R118). -/
theorem floor_add_half (n d : Nat) (hd : 0 < d) : ⌊(n : ℚ) / d + 1 / 2⌋ = (roundRatio n d : Int) := by
  have hd' : (d : ℚ) ≠ 0 := Nat.cast_ne_zero.2 hd.ne'
  have hsum : (n : ℚ) / d + 1 / 2 = ((2 * n + d : Nat) : ℚ) / ((2 * d : Nat) : ℚ) := by
    push_cast
    field_simp
  rw [hsum, Rat.floor_natCast_div_natCast, roundRatio]
  push_cast
  rfl

/-- R118: the increment of a frequency, in rationals. -/
theorem freqIncrement_eq_floor (fsHz f : Ratio) (hf : 0 < f.den) (hfs : 0 < fsHz.num) (hfsd : 0 < fsHz.den) :
    (freqIncrement fsHz f : Int) =
      min ⌊((f.num : ℚ) / f.den) * 2 ^ 32 / ((fsHz.num : ℚ) / fsHz.den) + 1 / 2⌋ (2 ^ 31) := by
  have hquot : ((f.num : ℚ) / f.den) * 2 ^ 32 / ((fsHz.num : ℚ) / fsHz.den) =
      ((f.num * turn * fsHz.den : Nat) : ℚ) / ((f.den * fsHz.num : Nat) : ℚ) := by
    rw [turn]
    push_cast
    field_simp
    norm_num
  rw [hquot, floor_add_half _ _ (Nat.mul_pos hf hfs), freqIncrement, Nat.cast_min]
  rfl

/-- WR_INC's clamp keeps an increment that is already in range (R201). -/
theorem incOperand_toNat_of_le {n : Nat} (h : n ≤ incMax) : (incOperand (BitVec.ofNat 32 n)).toNat = n := by
  have hlt : n < 2 ^ 32 := h.trans_lt (by decide)
  rw [incOperand, BitVec.toNat_ofNat, BitVec.toNat_ofNat, Nat.mod_eq_of_lt hlt, Nat.min_eq_left h, Nat.mod_eq_of_lt hlt]

/-- R118: SET_FREQ is one WR_INC where the frequency and the sample rate are numbers. -/
theorem expand_setFreq (fsHz f : Ratio) (c : Nat) (hf : 0 < f.den) (hfs : 0 < fsHz.num) (hfsd : 0 < fsHz.den) :
    (Pseudo.setFreq c f).expand fsHz = some [.wrInc c (BitVec.ofNat 32 (freqIncrement fsHz f))] :=
  if_neg (by omega)

/-- Settles O52: the expansion is WR_INC of the rounded increment, which the clamp of WR_INC keeps. -/
theorem setFreqStoresTheRoundedIncrement : Obligations.SetFreqStoresTheRoundedIncrement := by
  intro fsHz f c s ch h hf hfs hfsd
  refine ⟨_, _, _, expand_setFreq fsHz f c hf hfs hfsd, writeChannel_eq_setChan _ h, rfl, ?_⟩
  have hle : freqIncrement fsHz f ≤ incMax := Nat.min_le_right _ _
  rw [incOperand_toNat_of_le hle]
  exact freqIncrement_eq_floor fsHz f hf hfs hfsd

/-- Settles O53: R117's range is the union of the two; the word is the value modulo `2^32`. -/
theorem dataOperandsAreTwosComplement : Obligations.DataOperandsAreTwosComplement := by
  intro v
  have hword (h : -2147483648 ≤ v ∧ v < 4294967296) : dataOperand v = some (BitVec.ofInt 32 v) := if_pos h
  have hvalue : ((BitVec.ofInt 32 v).toNat : Int) = v % 2 ^ 32 := by
    rw [BitVec.toNat_ofInt, Int.toNat_of_nonneg (Int.emod_nonneg v (by decide))]
    rfl
  refine ⟨fun hlo hhi => ⟨_, hword (by omega), ?_⟩, fun hlo hhi => ⟨_, hword (by omega), ?_⟩,
    fun hout => if_neg (by omega)⟩
  · rw [hvalue]; omega
  · rw [hvalue]; omega

end Sys2Proof.Machine

/-! What one instruction can do to the state, said once (R280, R56), and the legal states it keeps legal (R58). -/

namespace Sys2Proof.Machine

/-! ### The effect of an instruction -/

/-- What the instruction can make of the context `c`, which holds `ch`: nothing, or what the command listed for one of
its registers writes. -/
inductive ContextChange (s : State) (c : Nat) (ch : Channel) : Instr → Channel → Prop where
  | kept (i : Instr) : ContextChange s c ch i ch
  | step : ContextChange s c ch .step (s.stepped c ch)
  | allReset : ContextChange s c ch .allReset ch.clearRunning
  | chReset : ContextChange s c ch (.chReset c) ch.clearRunning
  | wrInc (d : Word) : ContextChange s c ch (.wrInc c d) { ch with inc := incOperand d }
  | wrCtrl (d : Word) (w : Wave) :
    ContextChange s c ch (.wrCtrl c d) { ch with wave := w, syncEn := syncEnOperand c d }
  | wrPw (d : Word) : ContextChange s c ch (.wrPw c d) { ch with pw := pwOperand d }
  | wrPhase (d : Word) : ContextChange s c ch (.wrPhase c d) { ch with phase := d }
  | wrSeed (d : Word) : ContextChange s c ch (.wrSeed c d) { ch with seed := d }
  | wrSyncph (d : Word) : ContextChange s c ch (.wrSyncph c d) { ch with syncph := d }

/-- What the instruction can make of STATUS: nothing, a recorded error, or 0 (R47, R283, R289). -/
inductive StatusChange (st : Status) : Status → Prop where
  | kept : StatusChange st st
  | recorded (e : ErrorCode) (he : e ≠ .none) : StatusChange st (st.record e)
  | cleared : StatusChange st .zero

/-- What the instruction can make of the state `s`. -/
structure Effect (i : Instr) (s t : State) : Prop where
  nch    : t.nch = s.nch
  chans  : ∀ c ch, s.chan? c = some ch → ∃ ch', t.chan? c = some ch' ∧ ContextChange s c ch i ch'
  status : StatusChange s.status t.status
  rdata  : i.isRead = false → t.rdata = s.rdata
  build  : t.build = s.build
  port   : t.port = s.port

/-- The outcome is a next state with the effect of `i`. -/
def HasEffect (i : Instr) (s : State) (o : Host.Outcome State Fault Refusal) : Prop := ∃ t, o = .next t ∧ Effect i s t

section Effect
variable {i : Instr} {s : State}

/-- R283: a failing instruction records its error and changes nothing else. -/
theorem effect_raiseError (i : Instr) (s : State) {e : ErrorCode} (he : e ≠ .none) : Effect i s (s.raiseError e) where
  nch := rfl
  chans _ ch h := ⟨ch, h, .kept i⟩
  status := .recorded e he
  rdata _ := rfl
  build := rfl
  port := rfl

/-- R240: a read writes RDATA and nothing else. -/
theorem effect_writeRdata (s : State) (v : Word) (hread : i.isRead = true) : Effect i s (s.writeRdata v) where
  nch := rfl
  chans _ ch h := ⟨ch, h, .kept i⟩
  status := .kept
  rdata hi := absurd (hread.symm.trans hi) (by decide)
  build := rfl
  port := rfl

/-- R44: a write of one context. -/
theorem effect_modifyChan {n : Nat} {f : Channel → Channel} (hf : ∀ ch, ContextChange s n ch i (f ch)) :
    Effect i s (s.modifyChan n f) where
  nch := s.nch_modifyChan n f
  chans c ch h := by
    rw [State.chan?_modifyChan, h]
    split
    next hn => exact ⟨f ch, rfl, hn ▸ hf ch⟩
    next => exact ⟨ch, rfl, .kept i⟩
  status := .kept
  rdata _ := rfl
  build := rfl
  port := rfl

/-- R85: a write of every context at once. -/
theorem effect_mapChans {g : Nat → Channel → Channel} (hg : ∀ c ch, ContextChange s c ch i (g c ch)) :
    Effect i s (s.mapChans g) where
  nch := s.nch_mapChans g
  chans c ch h := ⟨g c ch, by rw [State.chan?_mapChans, h, Option.map_some], hg c ch⟩
  status := .kept
  rdata _ := rfl
  build := rfl
  port := rfl

/-- R209. -/
theorem effect_clearStatus (i : Instr) (s : State) : Effect i s s.clearStatus where
  nch := rfl
  chans _ ch h := ⟨ch, h, .kept i⟩
  status := .cleared
  rdata _ := rfl
  build := rfl
  port := rfl

/-- R210. -/
theorem effect_refl (i : Instr) (s : State) : Effect i s s where
  nch := rfl
  chans _ ch h := ⟨ch, h, .kept i⟩
  status := .kept
  rdata _ := rfl
  build := rfl
  port := rfl

theorem hasEffect_writeChannel {n : Nat} {f : Channel → Channel} (hf : ∀ ch, ContextChange s n ch i (f ch)) :
    HasEffect i s (writeChannel n s f) := by
  obtain ⟨-, hwrite⟩ | ⟨-, hrange⟩ := writeChannel_cases n s f
  · exact ⟨_, hwrite, effect_modifyChan hf⟩
  · exact ⟨_, hrange, effect_raiseError i s (by decide)⟩

theorem hasEffect_readChannel (n : Nat) (value : Channel → Word) (hread : i.isRead = true) :
    HasEffect i s (readChannel n s value) := by
  obtain ⟨ch, -, hvalue⟩ | ⟨-, hrange⟩ := readChannel_cases n s value
  · exact ⟨_, hvalue, effect_writeRdata s _ hread⟩
  · exact ⟨_, hrange, effect_raiseError i s (by decide)⟩

theorem hasEffect_execWrCtrl (n : Nat) (d : Word) (s : State) : HasEffect (.wrCtrl n d) s (execWrCtrl n d s) := by
  obtain ⟨w, -, -, hwrite⟩ | ⟨-, -, hbad⟩ | ⟨-, hrange⟩ := execWrCtrl_cases n d s
  · exact ⟨_, hwrite, effect_modifyChan fun _ => .wrCtrl d w⟩
  · exact ⟨_, hbad, effect_raiseError _ s (by decide)⟩
  · exact ⟨_, hrange, effect_raiseError _ s (by decide)⟩

/-- R280: every instruction answers a next state, in which only what is listed for it has changed. -/
theorem hasEffect_exec (i : Instr) (s : State) : HasEffect i s (exec i s) := by
  cases i with
  | nop => exact ⟨s, rfl, effect_refl _ s⟩
  | wrInc n d => exact hasEffect_writeChannel fun _ => .wrInc d
  | wrCtrl n d => exact hasEffect_execWrCtrl n d s
  | wrPw n d => exact hasEffect_writeChannel fun _ => .wrPw d
  | wrPhase n d => exact hasEffect_writeChannel fun _ => .wrPhase d
  | wrSeed n d => exact hasEffect_writeChannel fun _ => .wrSeed d
  | wrSyncph n d => exact hasEffect_writeChannel fun _ => .wrSyncph d
  | chReset n => exact hasEffect_writeChannel fun _ => .chReset
  | rdPhase n | rdInc n | rdCtrl n | rdPw n | rdSeed n | rdSyncph n | rdHold n | rdOut n =>
    exact hasEffect_readChannel n _ rfl
  | step => exact ⟨_, rfl, effect_mapChans fun _ _ => .step⟩
  | allReset => exact ⟨_, rfl, effect_mapChans fun _ _ => .allReset⟩
  | rdStatus | rdId | rdConfig => exact ⟨_, rfl, effect_writeRdata s _ rfl⟩
  | clrStatus => exact ⟨_, rfl, effect_clearStatus _ s⟩

/-- R280, R286: a command word has the effect of its instruction; an illegal one records its error, as any failing
instruction does. -/
theorem exists_hasEffect_perform (c : Command) (s : State) : ∃ i, HasEffect i s (perform c s) := by
  cases hdec : decode c with
  | legal i => exact ⟨i, perform_legal c i s hdec ▸ hasEffect_exec i s⟩
  | illegal why => exact ⟨.nop, _, perform_illegal c why s hdec, effect_raiseError _ s (by decide)⟩

/-- R44: an instruction that names another channel keeps the context. -/
theorem ContextChange.eq_of_channel_ne {c n : Nat} {ch ch' : Channel} (h : ContextChange s c ch i ch')
    (hi : i.channel? = some n) (hne : c ≠ n) : ch' = ch := by
  cases h with
  | kept => rfl
  | step | allReset => cases hi
  | chReset | wrInc | wrCtrl | wrPw | wrPhase | wrSeed | wrSyncph => exact absurd (Option.some.inj hi) hne

/-- R44: an instruction that names a channel keeps the other contexts. -/
theorem Effect.chan?_of_channel_ne {t : State} {c n : Nat} (h : Effect i s t) (hi : i.channel? = some n) (hne : c ≠ n) :
    t.chan? c = s.chan? c := by
  cases hc : s.chan? c with
  | none => exact (t.chan?_eq_none_iff c).2 (h.nch ▸ (s.chan?_eq_none_iff c).1 hc)
  | some ch =>
    obtain ⟨ch', hch', hchange⟩ := h.chans c ch hc
    rw [hch', hchange.eq_of_channel_ne hi hne]

end Effect

/-! ### Legal states (R58) -/

/-- R35, R38. -/
theorem Channel.legalAt_iff (c : Nat) (ch : Channel) :
    ch.legalAt c = true ↔ ch.inc.toNat ≤ incMax ∧ (ch.syncEn = true → oddChannel c = true) := by
  rw [Channel.legalAt, Bool.and_eq_true, decide_eq_true_iff]
  cases ch.syncEn <;> simp

/-- R58 reads INC and SYNC_EN alone. -/
theorem Channel.legalAt_congr {c : Nat} {ch ch' : Channel} (h : ch.legalAt c = true) (hinc : ch'.inc = ch.inc)
    (hsync : ch'.syncEn = ch.syncEn) : ch'.legalAt c = true := by
  rwa [Channel.legalAt, hinc, hsync]

/-- R201: the clamp of WR_INC. -/
theorem incOperand_le (d : Word) : (incOperand d).toNat ≤ incMax :=
  (BitVec.toNat_ofNat _ _).trans_le ((Nat.mod_le _ _).trans (Nat.min_le_right _ _))

/-- R202: WR_CTRL stores SYNC_EN on an odd channel only. -/
theorem oddChannel_of_syncEnOperand {c : Nat} {d : Word} (h : syncEnOperand c d = true) : oddChannel c = true :=
  (Bool.and_eq_true_iff.1 h).1

/-- R35, R38: INC is written by WR_INC, which clamps it, and SYNC_EN by WR_CTRL, which hardwires it. -/
theorem ContextChange.legalAt {s : State} {c : Nat} {i : Instr} {ch ch' : Channel} (h : ContextChange s c ch i ch')
    (hlegal : ch.legalAt c = true) : ch'.legalAt c = true := by
  obtain ⟨hinc, hodd⟩ := (Channel.legalAt_iff c ch).1 hlegal
  cases h with
  | kept => exact hlegal
  | step => exact Channel.legalAt_congr hlegal (stepChannel_inc _ _ _ ch) (stepChannel_syncEn _ _ _ ch)
  | allReset | chReset | wrPw | wrPhase | wrSeed | wrSyncph => exact Channel.legalAt_congr hlegal rfl rfl
  | wrInc d => exact (Channel.legalAt_iff c _).2 ⟨incOperand_le d, hodd⟩
  | wrCtrl d w => exact (Channel.legalAt_iff c _).2 ⟨hinc, oddChannel_of_syncEnOperand⟩

/-- R46: a recorded error comes with its code, and clearing clears both. -/
theorem StatusChange.legal {st st' : Status} (h : StatusChange st st') (hlegal : st.legal = true) :
    st'.legal = true := by
  cases h with
  | kept => exact hlegal
  | cleared => rfl
  | recorded e he =>
    cases herr : st.err with
    | true => rwa [st.record_of_err e herr]
    | false =>
      rw [st.record_of_not_err e herr]
      cases e with
      | none => exact absurd rfl he
      | illegalCmd | chRange | badValue => rfl

/-- Every instruction keeps a legal state legal. -/
theorem Effect.legal {i : Instr} {s t : State} (h : Effect i s t) (hs : s.Legal) : t.Legal where
  nch := h.nch ▸ hs.nch
  build := h.build ▸ hs.build
  status := h.status.legal hs.status
  chans c ch' hch' := by
    obtain ⟨ch, hch⟩ := (s.chan?_isSome_iff c).2 (h.nch ▸ (t.chan?_isSome_iff c).1 ⟨ch', hch'⟩)
    obtain ⟨ch'', hch'', hchange⟩ := h.chans c ch hch
    obtain rfl : ch' = ch'' := Option.some.inj (hch'.symm.trans hch'')
    exact hchange.legalAt (hs.chans c ch hch)

/-- R57: the reset value of a context is legal. -/
theorem Channel.legalAt_resetAt (noiseSeed : Word) (c : Nat) : (Channel.resetAt noiseSeed c).legalAt c = true :=
  (Channel.legalAt_iff c _).2 ⟨Nat.zero_le _, fun h => absurd h Bool.false_ne_true⟩

/-- R57: the state after reset is legal where the configuration is allowed. -/
theorem State.legal_resetWith {n : Nat} {b : Build} (hn : nchLegal n = true) (hb : b.legal = true) :
    (State.resetWith n b).Legal where
  nch := (State.nch_resetWith n b).symm ▸ hn
  build := hb
  status := rfl
  chans c ch hc := by
    rw [State.chan?_resetWith] at hc
    obtain ⟨-, hch⟩ := Option.ite_none_right_eq_some.1 hc
    exact Option.some.inj hch ▸ Channel.legalAt_resetAt _ c

/-- R58 reads the contexts, STATUS and the parameters; RDATA and the port may be any. -/
theorem State.Legal.congr {s t : State} (hs : s.Legal) (hchans : t.chans = s.chans) (hstatus : t.status = s.status)
    (hbuild : t.build = s.build) : t.Legal where
  nch := by rw [State.nch, hchans]; exact hs.nch
  build := hbuild ▸ hs.build
  status := hstatus ▸ hs.status
  chans := by unfold State.chan?; rw [hchans]; exact hs.chans

/-- R8, R147: the defaults are a legal build. -/
theorem default_legal : Build.default.legal = true := by decide +kernel

end Sys2Proof.Machine

/-! What follows from the effect of an instruction: which command writes which register (R56), that every step answers a
next state (R280), and that it keeps a legal state legal (R58). -/

namespace Sys2Proof.Machine

section Registers
variable {s : State} {c : Nat} {ch ch' : Channel} {i : Instr} (h : ContextChange s c ch i ch')
include h

/-- R35: WR_INC alone writes INC. -/
theorem ContextChange.inc_eq (hi : ∀ d, i ≠ .wrInc c d) : ch'.inc = ch.inc := by
  cases h with
  | wrInc d => exact absurd rfl (hi d)
  | step => exact stepChannel_inc _ _ _ ch
  | _ => rfl

/-- R37, R38: WR_CTRL alone writes CTRL. -/
theorem ContextChange.ctrl_eq (hi : ∀ d, i ≠ .wrCtrl c d) : ch'.wave = ch.wave ∧ ch'.syncEn = ch.syncEn := by
  cases h with
  | wrCtrl d => exact absurd rfl (hi d)
  | step => exact ⟨stepChannel_wave _ _ _ ch, stepChannel_syncEn _ _ _ ch⟩
  | _ => exact ⟨rfl, rfl⟩

/-- R39: WR_PW alone writes PW. -/
theorem ContextChange.pw_eq (hi : ∀ d, i ≠ .wrPw c d) : ch'.pw = ch.pw := by
  cases h with
  | wrPw d => exact absurd rfl (hi d)
  | step => exact stepChannel_pw _ _ _ ch
  | _ => rfl

/-- R40: STEP and WR_SEED write SEED. -/
theorem ContextChange.seed_eq (hstep : i ≠ .step) (hi : ∀ d, i ≠ .wrSeed c d) : ch'.seed = ch.seed := by
  cases h with
  | wrSeed d => exact absurd rfl (hi d)
  | step => exact absurd rfl hstep
  | _ => rfl

/-- R34: STEP, the resets and WR_PHASE write PHASE. -/
theorem ContextChange.phase_eq (hstep : i ≠ .step) (hch : i ≠ .chReset c) (hall : i ≠ .allReset)
    (hi : ∀ d, i ≠ .wrPhase c d) : ch'.phase = ch.phase := by
  cases h with
  | wrPhase d => exact absurd rfl (hi d)
  | step => exact absurd rfl hstep
  | chReset => exact absurd rfl hch
  | allReset => exact absurd rfl hall
  | _ => rfl

/-- R41: STEP, the resets and WR_SYNCPH write SYNCPH. -/
theorem ContextChange.syncph_eq (hstep : i ≠ .step) (hch : i ≠ .chReset c) (hall : i ≠ .allReset)
    (hi : ∀ d, i ≠ .wrSyncph c d) : ch'.syncph = ch.syncph := by
  cases h with
  | wrSyncph d => exact absurd rfl (hi d)
  | step => exact absurd rfl hstep
  | chReset => exact absurd rfl hch
  | allReset => exact absurd rfl hall
  | _ => rfl

/-- R42, R43: STEP and the resets write HOLD and OUT. -/
theorem ContextChange.hold_out_eq (hstep : i ≠ .step) (hch : i ≠ .chReset c) (hall : i ≠ .allReset) :
    ch'.hold = ch.hold ∧ ch'.out = ch.out := by
  cases h with
  | step => exact absurd rfl hstep
  | chReset => exact absurd rfl hch
  | allReset => exact absurd rfl hall
  | _ => exact ⟨rfl, rfl⟩

end Registers

/-- Settles O46: register by register, from what the instruction can make of the context. -/
theorem onlyListedCommandsWriteARegister : Obligations.OnlyListedCommandsWriteARegister := by
  intro i s
  obtain ⟨t, hexec, heffect⟩ := hasEffect_exec i s
  refine ⟨t, hexec, heffect.rdata, fun c ch hc => ?_⟩
  obtain ⟨ch', hc', hchange⟩ := heffect.chans c ch hc
  exact ⟨ch', hc', hchange.inc_eq, hchange.ctrl_eq, hchange.pw_eq, hchange.seed_eq, fun hstep hch hall =>
    ⟨hchange.phase_eq hstep hch hall, hchange.syncph_eq hstep hch hall, hchange.hold_out_eq hstep hch hall⟩⟩

/-- Settles O49: the reset value of every context is legal, and the build is the one that was allowed. -/
theorem resetStatesAreLegal : Obligations.ResetStatesAreLegal := by
  refine ⟨State.legal_resetWith (by decide) default_legal, fun n b s hs => ?_⟩
  rw [State.build?] at hs
  obtain ⟨hlegal, hs⟩ := Option.ite_none_right_eq_some.1 hs
  obtain ⟨hn, hb⟩ := Bool.and_eq_true_iff.1 hlegal
  exact Option.some.inj hs ▸ State.legal_resetWith hn hb

/-- Settles O13: a step performs a command, takes the reset values or passes. -/
theorem everyCommandAndStepAnswersANextState : Obligations.EveryCommandAndStepAnswersANextState := by
  have hperform (c : Command) (s : State) : ∃ t, perform c s = .next t :=
    have ⟨_, t, hnext, _⟩ := exists_hasEffect_perform c s
    ⟨t, hnext⟩
  refine ⟨hperform, fun s => ?_⟩
  obtain ⟨-, hreset⟩ | ⟨c, -, -, hcommand⟩ | ⟨-, -, hpass⟩ := step_cases s
  · exact ⟨_, hreset⟩
  · exact hcommand ▸ hperform c _
  · exact ⟨_, hpass⟩

/-- Settles O48: the reset values are legal, and every command keeps a legal state legal, as does a step that passes. -/
theorem stepKeepsTheStateLegal : Obligations.StepKeepsTheStateLegal := by
  intro s hs t hstep
  obtain ⟨-, hreset⟩ | ⟨c, -, -, hcommand⟩ | ⟨-, -, hpass⟩ := step_cases s
  · cases hstep.symm.trans hreset
    exact (State.legal_resetWith hs.nch hs.build).congr rfl rfl rfl
  · obtain ⟨i, t', hperform, heffect⟩ := exists_hasEffect_perform c s.acceptCommand
    cases (hstep.symm.trans hcommand).trans hperform
    exact heffect.legal (hs.congr rfl rfl rfl)
  · cases hstep.symm.trans hpass
    exact hs.congr rfl rfl rfl

end Sys2Proof.Machine

/-! Two states side by side: an instruction takes related states to related states, where the relation is kept by the
shared operations. -/

namespace Sys2Proof.Machine

/-- Both outcomes are next states, which `R` relates. -/
def Related (R : State → State → Prop) (o o' : Host.Outcome State Fault Refusal) : Prop :=
  ∃ t t', o = .next t ∧ o' = .next t' ∧ R t t'

/-- States that `R` relates hold the same context `c`, and what a command of channel `c` can do to both keeps `R`. -/
structure ChannelCongruence (c : Nat) (R : State → State → Prop) : Prop where
  chan?      : ∀ {s s'}, R s s' → s.chan? c = s'.chan? c
  modifyChan : ∀ {s s'} f, R s s' → R (s.modifyChan c f) (s'.modifyChan c f)
  writeRdata : ∀ {s s'} v, R s s' → R (s.writeRdata v) (s'.writeRdata v)
  raiseError : ∀ {s s'} e, R s s' → R (s.raiseError e) (s'.raiseError e)

section Related
variable {c : Nat} {R : State → State → Prop} (hR : ChannelCongruence c R) {s s' : State} (h : R s s')
include hR h

theorem related_channelCommand {body body' : Channel → Host.Outcome State Fault Refusal}
    (hbody : ∀ ch, Related R (body ch) (body' ch)) :
    Related R (channelCommand c s body) (channelCommand c s' body') := by
  unfold channelCommand
  rw [← hR.chan? h]
  cases s.chan? c with
  | none => exact ⟨_, _, rfl, rfl, hR.raiseError _ h⟩
  | some ch => exact hbody ch

theorem related_writeChannel (f : Channel → Channel) : Related R (writeChannel c s f) (writeChannel c s' f) :=
  related_channelCommand hR h fun _ => ⟨_, _, rfl, rfl, hR.modifyChan f h⟩

theorem related_readChannel (value : Channel → Word) : Related R (readChannel c s value) (readChannel c s' value) :=
  related_channelCommand hR h fun _ => ⟨_, _, rfl, rfl, hR.writeRdata _ h⟩

theorem related_execWrCtrl (d : Word) : Related R (execWrCtrl c d s) (execWrCtrl c d s') := by
  cases hw : waveOperand d with
  | none =>
    rw [execWrCtrl_of_reserved c s hw, execWrCtrl_of_reserved c s' hw]
    exact related_channelCommand hR h fun _ => ⟨_, _, rfl, rfl, hR.raiseError _ h⟩
  | some w =>
    rw [execWrCtrl_of_wave c s hw, execWrCtrl_of_wave c s' hw]
    exact related_writeChannel hR h _

/-- R200: a channel command is a write or a read of its context. -/
theorem related_exec_of_channel {i : Instr} (hi : i.channel? = some c) : Related R (exec i s) (exec i s') := by
  cases i with
  | nop | step | allReset | rdStatus | rdId | rdConfig | clrStatus => cases hi
  | wrInc | wrPw | wrPhase | wrSeed | wrSyncph | chReset =>
    cases hi
    exact related_writeChannel hR h _
  | rdPhase | rdInc | rdCtrl | rdPw | rdSeed | rdSyncph | rdHold | rdOut =>
    cases hi
    exact related_readChannel hR h _
  | wrCtrl n d =>
    cases hi
    exact related_execWrCtrl hR h d

end Related

/-! ### Reads of a channel command -/

/-- The states agree on what a command of channel `c` reads (R44). -/
def AgreeAt (c : Nat) (s s' : State) : Prop := s.chan? c = s'.chan? c ∧ s.status = s'.status ∧ s.rdata = s'.rdata

theorem channelCongruence_agreeAt (c : Nat) : ChannelCongruence c (AgreeAt c) where
  chan? := fun ⟨hchan, _, _⟩ => hchan
  modifyChan f := by
    rintro ⟨hchan, hstatus, hrdata⟩
    refine ⟨?_, hstatus, hrdata⟩
    rw [State.chan?_modifyChan, State.chan?_modifyChan, hchan]
  writeRdata _ := fun ⟨hchan, hstatus, _⟩ => ⟨hchan, hstatus, rfl⟩
  raiseError e := fun ⟨hchan, hstatus, hrdata⟩ => ⟨hchan, congrArg (Status.record · e) hstatus, hrdata⟩

/-- Settles O45: the writes from the effect of the instruction, the reads by comparing two states that agree. -/
theorem channelCommandTouchesOneContext : Obligations.ChannelCommandTouchesOneContext := by
  refine fun i c hi => ⟨fun s => ?writes, fun s s' hchan hstatus hrdata => ?reads⟩
  case writes =>
    obtain ⟨t, hexec, heffect⟩ := hasEffect_exec i s
    exact ⟨t, hexec, heffect.nch, heffect.build, heffect.port, fun k hk => heffect.chan?_of_channel_ne hi hk⟩
  case reads => exact related_exec_of_channel (channelCongruence_agreeAt c) ⟨hchan, hstatus, hrdata⟩ hi

end Sys2Proof.Machine

/-! The port and a step (R89, R100, R297, R320): what a step does by what the host presents. -/

namespace Sys2Proof.Machine

section Port
variable {s : State} {c : Command} {rest : List Command}

theorem rstAsserted_eq_true (h : s.port.rst.head? = some true) : s.rstAsserted = true := by
  rw [State.rstAsserted, List.headD_eq_head?_getD, h]
  rfl

/-- R320: `rst` is released where its level is low, and once the list of levels ends. -/
theorem rstAsserted_eq_false (h : s.port.rst.head? ≠ some true) : s.rstAsserted = false := by
  rw [State.rstAsserted, List.headD_eq_head?_getD]
  cases hhead : s.port.rst.head? with
  | none => rfl
  | some level => exact Bool.eq_false_iff.2 fun hlevel => h (hhead.trans (congrArg some hlevel))

/-- R320: a step at which `rst` is asserted. -/
theorem step_of_rst (h : s.port.rst.head? = some true) : step s = .next s.passStep.resetRegisters :=
  if_pos (rstAsserted_eq_true h)

/-- R89: a step performs the command presented first, at the state with the port advanced. -/
theorem step_of_presented (hcommands : s.port.commands = c :: rest) (hrst : s.port.rst.head? ≠ some true) :
    step s = perform c { s with port := { commands := rest, rst := s.port.rst.tail } } := by
  rw [step, advance, rstAsserted_eq_false hrst, if_neg Bool.false_ne_true, State.presented, State.acceptCommand,
    hcommands]
  rfl

/-- R297: a step with nothing presented. -/
theorem step_of_idle (hcommands : s.port.commands = []) (hrst : s.port.rst.head? ≠ some true) :
    step s = .next s.passStep := by
  rw [step, advance, rstAsserted_eq_false hrst, if_neg Bool.false_ne_true, State.presented, hcommands]
  rfl

end Port

/-- Settles O8. -/
theorem stepPerformsThePresentedCommand : Obligations.StepPerformsThePresentedCommand :=
  fun _ c _ i hcommands hrst hdec => (step_of_presented hcommands hrst).trans (perform_legal c i _ hdec)

/-- Settles O9: a word no row covers is illegal, and an illegal word records its error. -/
theorem stepOnIllegalWordOnlyRecords : Obligations.StepOnIllegalWordOnlyRecords :=
  fun _ _ _ hcommands hrst hnone =>
    (step_of_presented hcommands hrst).trans (perform_of_isIllegal _ (isIllegal_of_not_covers hnone))

/-- Settles O10: the step leaves the reset values of the state's own build. -/
theorem rstSetsEveryRegister : Obligations.RstSetsEveryRegister := by
  intro s hrst
  obtain ⟨-, -, hreset⟩ := resetStateHoldsTheResetValues
  obtain ⟨hlength, hstatus, hrdata, hbuild, hchans⟩ := hreset s.nch s.build
  exact ⟨_, step_of_rst hrst, rfl, hbuild, hlength, hstatus, hrdata, hchans⟩

/-- Settles O12. -/
theorem idleBlockKeepsItsRegisters : Obligations.IdleBlockKeepsItsRegisters :=
  fun _ hcommands hrst => ⟨_, step_of_idle hcommands hrst, rfl, rfl, rfl, rfl, hcommands⟩

/-! ### What a command does is independent of what the host presents after it -/

/-- The state with the port `p`. -/
def State.withPort (p : HostPort) (s : State) : State := { s with port := p }

theorem channelCongruence_withPort (p : HostPort) (c : Nat) :
    ChannelCongruence c fun s s' => s' = s.withPort p where
  chan? := by rintro _ _ rfl; rfl
  modifyChan _ := by rintro rfl; rfl
  writeRdata _ := by rintro rfl; rfl
  raiseError _ := by rintro rfl; rfl

/-- No instruction reads the port. -/
theorem related_exec_withPort (p : HostPort) (i : Instr) (s : State) :
    Related (fun t t' => t' = t.withPort p) (exec i s) (exec i (s.withPort p)) := by
  cases hi : i.channel? with
  | some c => exact related_exec_of_channel (channelCongruence_withPort p c) rfl hi
  | none =>
    cases i with
    | nop | step | allReset | rdStatus | rdId | rdConfig | clrStatus => exact ⟨_, _, rfl, rfl, rfl⟩
    | wrInc | wrCtrl | wrPw | wrPhase | wrSeed | wrSyncph | chReset | rdPhase | rdInc | rdCtrl | rdPw | rdSeed
    | rdSyncph | rdHold | rdOut => cases hi

theorem related_perform_withPort (p : HostPort) (c : Command) (s : State) :
    Related (fun t t' => t' = t.withPort p) (perform c s) (perform c (s.withPort p)) := by
  cases hdec : decode c with
  | legal i =>
    rw [perform_legal c i _ hdec, perform_legal c i _ hdec]
    exact related_exec_withPort p i s
  | illegal why =>
    exact ⟨_, _, perform_illegal c why s hdec, perform_illegal c why (s.withPort p) hdec, rfl⟩

/-- Performing a command keeps the port (R89: the step has taken the command from it before). -/
theorem perform_port {c : Command} {s t : State} (h : perform c s = .next t) : t.port = s.port := by
  obtain ⟨i, t', hperform, heffect⟩ := exists_hasEffect_perform c s
  cases h.symm.trans hperform
  exact heffect.port

/-- A step with `c` presented before `cs` leaves what performing `c` leaves with nothing presented, and `cs` presented. -/
theorem step_withPort_cons (c : Command) (cs : List Command) (s : State) :
    ∃ t, perform c (s.withPort .idle) = .next t ∧ t.withPort .idle = t ∧
      step (s.withPort { commands := c :: cs, rst := [] }) = .next (t.withPort { commands := cs, rst := [] }) := by
  obtain ⟨t, t', hidle, hport, rfl⟩ :=
    related_perform_withPort { commands := cs, rst := [] } c (s.withPort .idle)
  have htport : HostPort.idle = t.port := (perform_port hidle).symm
  have hreleased : ([] : List Bool).head? ≠ some true := by decide
  refine ⟨t, hidle, by rw [State.withPort, htport], ?_⟩
  exact (step_of_presented (s := s.withPort { commands := c :: cs, rst := [] }) rfl hreleased).trans hport

/-- One more step of a run, which goes on from the next state. -/
theorem run_succ_of_step (M : Host.Core) (n : Nat) {s t : M.State} (h : M.step s = .next t) :
    M.run (n + 1) s = M.run n t := by
  rw [Host.Core.run, h]

/-- Settles O50: by induction over the commands, each step performing the next one. -/
theorem steppingThroughCommandsIsTheRun : Obligations.SteppingThroughCommandsIsTheRun := by
  intro cs
  induction cs with
  | nil => exact fun s => rfl
  | cons c cs ih =>
    intro s
    obtain ⟨t, hperform, hidle, hstep⟩ := step_withPort_cons c cs s
    calc core.run (c :: cs).length (s.withPort { commands := c :: cs, rst := [] })
        = core.run cs.length (t.withPort { commands := cs, rst := [] }) := run_succ_of_step core cs.length hstep
      _ = .next (observe cs (t.withPort .idle)).final := ih t
      _ = .next (observe (c :: cs) (s.withPort .idle)).final := by rw [hidle, observe_cons_final cs hperform]

end Sys2Proof.Machine

/-! A run and its observation (R331). -/

namespace Sys2Proof.Machine

theorem isRead_iff (i : Instr) : i.isRead = true ↔ Spec.isRead i := by
  unfold Spec.isRead
  cases i <;> simp [Instr.isRead]

/-- R50: the read commands are those that decode to a read. -/
theorem performsRead_iff (c : Command) : performsRead c = true ↔ Spec.readCommand c := by
  unfold performsRead Spec.readCommand
  cases decode c with
  | legal i => simp [isRead_iff]
  | illegal => simp

theorem performsStep_iff (c : Command) : performsStep c = true ↔ decode c = .legal .step := by
  unfold performsStep
  cases decode c <;> simp

/-- R331: the reads of a sequence are RDATA after its first command, if that is a read, and then the reads of its
tail. -/
theorem observe_cons_reads {c : Command} {s t : State} (cs : List Command) (h : perform c s = .next t) :
    (observe (c :: cs) s).reads =
      if performsRead c then t.rdata :: (observe cs t).reads else (observe cs t).reads := by
  rw [observe, h]

/-- Every command word answers a next state with as many contexts (R280). -/
theorem exists_perform_next (c : Command) (s : State) :
    ∃ t, perform c s = .next t ∧ t.chans.length = s.chans.length := by
  obtain ⟨i, t, hperform, heffect⟩ := exists_hasEffect_perform c s
  exact ⟨t, hperform, heffect.nch⟩

/-- One RDATA value per read. -/
theorem observe_reads_length (cs : List Command) (s : State) :
    (observe cs s).reads.length = (cs.filter performsRead).length := by
  induction cs generalizing s with
  | nil => rfl
  | cons c cs ih =>
    obtain ⟨t, hperform, -⟩ := exists_perform_next c s
    rw [observe_cons_reads cs hperform, List.filter_cons]
    split
    · rw [List.length_cons, List.length_cons, ih]
    · exact ih t

/-- One OUT vector per STEP. -/
theorem observe_frames_length (cs : List Command) (s : State) :
    (observe cs s).frames.length = (cs.filter performsStep).length := by
  induction cs generalizing s with
  | nil => rfl
  | cons c cs ih =>
    obtain ⟨t, hperform, -⟩ := exists_perform_next c s
    rw [observe_cons_frames cs hperform, List.filter_cons]
    split
    · rw [List.length_cons, List.length_cons, ih]
    · exact ih t

/-- NCH samples per OUT vector. -/
theorem length_of_mem_observe_frames (cs : List Command) (s : State) :
    ∀ f ∈ (observe cs s).frames, f.length = s.chans.length := by
  induction cs generalizing s with
  | nil => exact fun _ hf => absurd hf List.not_mem_nil
  | cons c cs ih =>
    obtain ⟨t, hperform, hlength⟩ := exists_perform_next c s
    rw [observe_cons_frames cs hperform, ← hlength]
    split
    · exact List.forall_mem_cons.2 ⟨List.length_map _, ih t⟩
    · exact ih t

/-- The observation of two sequences one after the other. -/
def Observation.append (o o' : Observation) : Observation :=
  { reads := o.reads ++ o'.reads, frames := o.frames ++ o'.frames, final := o'.final }

theorem observe_append (cs ds : List Command) (s : State) :
    observe (cs ++ ds) s = (observe cs s).append (observe ds (observe cs s).final) := by
  induction cs generalizing s with
  | nil => rfl
  | cons c cs ih =>
    obtain ⟨t, hperform, -⟩ := exists_perform_next c s
    simp only [List.cons_append, observe, hperform, ih t, Observation.append]
    cases performsRead c <;> cases performsStep c <;> rfl

/-- R331 for one command. -/
theorem observe_singleton {c : Command} {s t : State} (h : perform c s = .next t) :
    observe [c] s =
      { reads := if performsRead c then [t.rdata] else [], frames := if performsStep c then [t.outs] else [],
        final := t } := by
  rw [observe, h]
  rfl

/-- Settles O51: one command by what it is, sequences by induction. -/
theorem observationFollowsTheCommands : Obligations.ObservationFollowsTheCommands := by
  refine ⟨fun c => ⟨performsRead_iff c, performsStep_iff c⟩, fun s => ⟨rfl, rfl, rfl⟩, fun c s t hperform => ?_,
    fun cs ds s => ?_⟩
  · rw [observe_singleton hperform, ← performsRead_iff, ne_eq, ← performsStep_iff]
    exact ⟨fun h => if_pos h, fun h => if_neg h, fun h => if_pos h, fun h => if_neg h, rfl⟩
  · rw [observe_append]
    exact ⟨observe_reads_length cs s, observe_frames_length cs s, length_of_mem_observe_frames cs s, rfl, rfl, rfl⟩

end Sys2Proof.Machine

/-! ALL_RESET as a sequence (R208), and a write read back (R90). -/

namespace Sys2Proof.Machine

/-! ### Resetting the channels one after another -/

/-- Two updates of every context that agree on the contexts there are. -/
theorem mapChans_congr {s : State} {g g' : Nat → Channel → Channel}
    (h : ∀ c ch, s.chan? c = some ch → g c ch = g' c ch) : s.mapChans g = s.mapChans g' := by
  have hchans : s.chans.mapIdx g = s.chans.mapIdx g' := List.ext_getElem? fun c => by
    rw [List.getElem?_mapIdx, List.getElem?_mapIdx]
    exact Option.map_congr fun ch hch => h c ch hch
  rw [State.mapChans, hchans, State.mapChans]

/-- A write of one context after an update of every one is an update of every one. -/
theorem modifyChan_mapChans (s : State) (g : Nat → Channel → Channel) (k : Nat) (f : Channel → Channel) :
    (s.mapChans g).modifyChan k f = s.mapChans fun c ch => if k = c then f (g c ch) else g c ch := by
  have hchans : (s.chans.mapIdx g).modify k f = s.chans.mapIdx fun c ch => if k = c then f (g c ch) else g c ch :=
    List.ext_getElem? fun c => by
      rw [List.getElem?_modify, List.getElem?_mapIdx, List.getElem?_mapIdx]
      split <;> cases s.chans[c]? <;> rfl
  rw [State.mapChans, State.modifyChan, hchans, State.mapChans]

/-- The running state of the first `k` channels cleared. -/
def State.clearBelow (k : Nat) (s : State) : State :=
  s.mapChans fun c ch => if c < k then ch.clearRunning else ch

theorem clearBelow_zero (s : State) : s.clearBelow 0 = s := by
  have hid : s.clearBelow 0 = s.mapChans fun _ => id := mapChans_congr fun _ _ _ => rfl
  rw [hid, mapChans_const, List.map_id]

theorem clearBelow_nch (s : State) : s.clearBelow s.nch = s.mapChans fun _ ch => ch.clearRunning :=
  mapChans_congr fun c ch hch => if_pos ((s.chan?_isSome_iff c).1 ⟨ch, hch⟩)

theorem clearBelow_succ (k : Nat) (s : State) :
    (s.clearBelow k).modifyChan k Channel.clearRunning = s.clearBelow (k + 1) := by
  rw [State.clearBelow, modifyChan_mapChans]
  refine mapChans_congr fun c ch _ => ?_
  obtain hlt | rfl | hgt := Nat.lt_trichotomy k c
  · rw [if_neg hlt.ne, if_neg (by omega), if_neg (by omega)]
  · rw [if_pos rfl, if_neg (by omega), if_pos (by omega)]
  · rw [if_neg hgt.ne', if_pos hgt, if_pos (by omega)]

/-- CH_RESET on channels 0 to `k - 1`, one after another. -/
theorem foldl_chReset (s : State) (k : Nat) (hk : k ≤ s.nch) :
    (List.range k).foldl (fun o c => Spec.andThen o (.chReset c)) (.next s) = .next (s.clearBelow k) := by
  induction k with
  | zero => exact congrArg _ (clearBelow_zero s).symm
  | succ k ih =>
    have hnch : (s.clearBelow k).nch = s.nch := s.nch_mapChans _
    rw [List.range_succ, List.foldl_append, ih (by omega), ← clearBelow_succ]
    obtain ⟨-, hwrite⟩ | ⟨hrange, -⟩ := writeChannel_cases k (s.clearBelow k) Channel.clearRunning
    · exact hwrite
    · omega

/-- Settles O23: after the last channel every one is cleared. -/
theorem allResetIsChResetOnEveryChannel : Obligations.AllResetIsChResetOnEveryChannel :=
  fun s => ((foldl_chReset s s.nch le_rfl).trans (congrArg _ (clearBelow_nch s))).symm

/-! ### A write read back -/

/-- R90: a read after a write on an existing channel reads the register as the write left it. -/
theorem writeChannel_then_readChannel {c : Nat} {s : State} {ch : Channel} (h : s.chans[c]? = some ch)
    (f : Channel → Channel) (value : Channel → Word) :
    ∃ t u, writeChannel c s f = .next t ∧ readChannel c t value = .next u ∧ u.rdata = value (f ch) := by
  have hwritten : (Spec.setChan s c (f ch)).chans[c]? = some (f ch) :=
    List.getElem?_set_self (lt_nch_of_chans h)
  exact ⟨_, _, writeChannel_eq_setChan f h, readChannel_eq_rdata value hwritten, rfl⟩

/-- R202, R243: CTRL as it reads after WR_CTRL of a waveform's code. -/
theorem ctrlAt_toNat_of_wrCtrl {c : Nat} {d : Word} {w : Wave} {ch : Channel} (hcode : w.code.toNat = d.toNat % 8) :
    (({ ch with wave := w, syncEn := syncEnOperand c d } : Channel).ctrlAt c).toNat =
      if c % 2 = 1 then d.toNat % 16 else d.toNat % 8 := by
  simp only [Channel.ctrlAt_toNat, syncEnOperand_eq, decide_eq_true_iff, hcode]
  split <;> split <;> omega

/-- Settles O27: each is a channel write and the read of the register written. -/
theorem writeThenReadReturnsTheValue : Obligations.WriteThenReadReturnsTheValue := by
  intro c d s hc
  obtain ⟨ch, hch⟩ : ∃ ch, s.chans[c]? = some ch := (s.chan?_isSome_iff c).2 hc
  have hback (f : Channel → Channel) (value : Channel → Word) := writeChannel_then_readChannel hch f value
  refine ⟨?inc, fun hd => ?ctrl, ?pw, hback _ _, hback _ _, hback _ _⟩
  case inc =>
    obtain ⟨t, u, hwrite, hread, hvalue⟩ := hback (fun ch => { ch with inc := incOperand d }) (·.inc)
    refine ⟨t, u, hwrite, hread, ?_⟩
    rw [hvalue, incOperand, BitVec.toNat_ofNat, incMax]
    omega
  case ctrl =>
    obtain ⟨w, hw, hcode⟩ := waveOperand_some d hd
    obtain ⟨t, u, hwrite, hread, hvalue⟩ :=
      hback (fun ch => { ch with wave := w, syncEn := syncEnOperand c d }) (·.ctrlAt c)
    exact ⟨t, u, (execWrCtrl_of_wave c s hw).trans hwrite, hread, hvalue ▸ ctrlAt_toNat_of_wrCtrl hcode⟩
  case pw =>
    obtain ⟨t, u, hwrite, hread, hvalue⟩ := hback (fun ch => { ch with pw := pwOperand d }) (zext32 ·.pw)
    refine ⟨t, u, hwrite, hread, ?_⟩
    rw [hvalue, zext32_toNat, pwOperand_eq, BitVec.toNat_ofNat, Nat.mod_mod]

end Sys2Proof.Machine

/-! STEP: its frame (R140), the sample at phase 0 (R143), the sine table (R146, R147), and contexts that move together
(R3, R143, R156). -/

namespace Sys2Proof.Machine

/-! ### One STEP -/

/-- Settles O28: its only word, and the fields each context keeps. -/
theorem stepFrame : Obligations.StepFrame := by
  refine ⟨rfl, Spec.onlyWords_of_global (by decide) rfl, fun s => ⟨s.sampleStep, exec_step s, rfl, rfl, rfl, rfl,
    s.nch_sampleStep, fun c ch h => ?_⟩⟩
  obtain ⟨t, hstep, hchan⟩ := stepGives_stepped h
  cases (exec_step s).symm.trans hstep
  obtain ⟨-, -, hsyncph, -⟩ := accumulatorsAdvance_stepped h
  exact ⟨s.stepped c ch, hchan, stepChannel_inc _ _ _ ch, stepChannel_wave _ _ _ ch, stepChannel_syncEn _ _ _ ch,
    stepChannel_pw _ _ _ ch, stepped_seed_kept, stepped_hold_kept, hsyncph⟩

/-- R151: PULSE begins its rise at phase 0. -/
theorem pulseValue_zero (ch : Channel) : Spec.pulseValue 0 ch = -32767 := by
  rw [Spec.pulseValue, if_pos (show 0 < Spec.width ch from one_le_width ch), Nat.mul_zero, Nat.zero_div]
  rfl

/-- R153: SAW begins its rise at phase 0. -/
theorem sawValue_zero (ch : Channel) : Spec.sawValue 0 ch = -32767 := by
  rw [Spec.sawValue, if_pos (show 0 < Spec.breakpoint ch from (breakpoint_inside ch).1), Nat.mul_zero, Nat.zero_div]
  rfl

section Step
variable {s : State} {c : Nat} {ch : Channel}

theorem stepped_out_of_sine_of_wrap (h : s.chans[c]? = some ch) (hwrap : Spec.syncWraps s c ch) (hw : ch.wave = .sine) :
    (s.stepped c ch).out = sineLut s.build.quarter 0 := by
  rw [stepped_out_of_sine hw, stepped_phase_of_wrap h hwrap]
  rfl

theorem stepped_out_toInt_of_wrap (h : s.chans[c]? = some ch) (hwrap : Spec.syncWraps s c ch)
    (hw : ch.wave = .pulse ∨ ch.wave = .saw) : (s.stepped c ch).out.toInt = -32767 := by
  obtain hw | hw := hw
  · rw [stepped_out_of_pulse hw, stepped_phase_of_wrap h hwrap]
    exact pulseValue_zero ch
  · rw [stepped_out_of_saw hw, stepped_phase_of_wrap h hwrap]
    exact sawValue_zero ch

end Step

/-- Settles O30: the accumulators by their law, the samples at phase 0 where the sync accumulator wraps. -/
theorem stepAdvancesTheSyncAccumulator : Obligations.StepAdvancesTheSyncAccumulator := by
  intro s c ch h
  obtain ⟨-, hphase, hkept, hsync⟩ := accumulatorsAdvance_stepped h
  refine ⟨s.stepped c ch, stepGives_stepped h, hkept, fun hs => ?_⟩
  obtain ⟨master, hmaster, hsyncph⟩ := hsync hs
  refine ⟨master, hmaster, hsyncph, fun hwrap => ?_, fun hno => hphase ?_⟩
  · have hwraps : Spec.syncWraps s c ch := ⟨hs, master, hmaster, hwrap⟩
    exact ⟨stepped_phase_of_wrap h hwraps, stepped_out_of_sine_of_wrap h hwraps, stepped_out_toInt_of_wrap h hwraps⟩
  · rintro ⟨-, master', hmaster', hwrap⟩
    cases hmaster.symm.trans hmaster'
    omega

/-! ### The sine table -/

/-- R146: the first quarter. -/
theorem sineLut_of_le {k : Nat} (q : List Half) (hk : k ≤ 256) : sineLut q k = quarterEntry q k := by
  rw [sineLut, if_pos (by omega), halfWave, if_pos hk]

/-- R146: the second quarter mirrors the first. -/
theorem sineLut_mirror {k : Nat} (q : List Half) (hlo : 256 < k) (hhi : k ≤ 512) :
    sineLut q k = sineLut q (512 - k) := by
  rw [sineLut_of_le q (show 512 - k ≤ 256 by omega), sineLut, if_pos hhi, halfWave, if_neg (by omega)]

/-- R146: the second half negates the first. -/
theorem sineLut_neg {k : Nat} (q : List Half) (hlo : 512 < k) (hhi : k < 1024) :
    sineLut q k = -sineLut q (k - 512) := by
  have hhalf : sineLut q (k - 512) = halfWave q (k - 512) := if_pos (by omega)
  rw [hhalf]
  exact if_neg (by omega)

/-- R147: the conditions on the first quarter. -/
theorem build_legal_iff (b : Build) :
    b.legal = true ↔ b.quarter.length = 257 ∧ (∀ v ∈ b.quarter, v ≠ 0x8000) ∧ quarterEntry b.quarter 0 = 0 ∧
      quarterEntry b.quarter 256 = 32767 := by
  simp only [Build.legal, Bool.and_eq_true, beq_iff_eq, List.all_eq_true, bne_iff_ne, and_assoc]

/-- Settles O37: the symmetries hold of every quarter, the range and the two entries of a legal one. -/
theorem sineTableSymmetriesAndRange : Obligations.SineTableSymmetriesAndRange := by
  refine ⟨default_legal, fun b hb => ?_⟩
  obtain ⟨hlength, -, hzero, hpeak⟩ := (build_legal_iff b).1 hb
  refine ⟨hzero, ?_, fun k hk => ⟨⟨neg_fullScale_le_sineLut hb k, (half_range _).2⟩, fun hle => ?_,
    fun hlo hhi => sineLut_mirror _ hlo hhi, fun hlo => ?_⟩⟩
  · rw [sineLut_of_le _ le_rfl, hpeak]
    decide
  · rw [sineLut_of_le _ hle, quarterEntry, List.getD_eq_getElem?_getD, List.getElem?_eq_getElem (by omega)]
    rfl
  · rw [sineLut_neg _ hlo hk, half_neg_toInt _ (neg_fullScale_le_sineLut hb _)]

/-! ### Contexts that move together over STEPs -/

/-- R38: an even channel is not synced. -/
theorem not_synced_even (v : Nat) (ch : Channel) : ¬Spec.synced (2 * v) ch := by
  rintro ⟨hodd, -⟩
  omega

/-- R142, R143: one STEP of a synced slave whose SYNCPH is its master's PHASE. -/
theorem stepped_syncph_eq_master_phase {s : State} {v : Nat} {master slave : Channel}
    (hmaster : s.chans[2 * v]? = some master) (hslave : s.chans[2 * v + 1]? = some slave) (hsync : slave.syncEn = true)
    (heq : slave.syncph = master.phase) :
    (s.stepped (2 * v + 1) slave).syncph = (s.stepped (2 * v) master).phase := by
  obtain ⟨-, -, -, hsyncph⟩ := accumulatorsAdvance_stepped hslave
  obtain ⟨master', hmaster', hadvance⟩ := hsyncph ⟨by omega, hsync⟩
  obtain rfl : master = master' := Option.some.inj (hmaster.symm.trans hmaster')
  apply BitVec.eq_of_toNat_eq
  rw [hadvance, stepped_phase_of_not_wrap hmaster fun hwrap => not_synced_even v master hwrap.1, heq]

/-- Settles O40: the equality is kept by one STEP, and so by any number of them. -/
theorem syncAccumulatorTracksTheMaster : Obligations.SyncAccumulatorTracksTheMaster := by
  intro s v master slave hmaster hslave hsync heq n
  refine ⟨_, _, chans_render_track hmaster n, chans_render_track hslave n, ?_⟩
  induction n with
  | zero => rwa [s.track_zero _ slave hslave, s.track_zero _ master hmaster]
  | succ n ih =>
    obtain ⟨-, -, -, hsyncn⟩ := s.track_settings _ slave hslave n
    rw [track_succ_eq_stepped hslave, track_succ_eq_stepped hmaster]
    exact stepped_syncph_eq_master_phase (chans_render_track hmaster n) (chans_render_track hslave n)
      (hsyncn.trans hsync) ih

/-- R156: one STEP of a context in NOISE mode, followed. -/
theorem track_of_noise {s : State} {c : Nat} {ch : Channel} (h : s.chans[c]? = some ch) (hw : ch.wave = .noise)
    (n : Nat) :
    (s.track c (n + 1)).out = draw (lcg (s.track c n).seed) ∧ (s.track c (n + 1)).seed = lcg (s.track c n).seed := by
  obtain ⟨-, hwave, -⟩ := s.track_settings c ch h n
  rw [track_succ_eq_stepped h]
  exact stepChannel_noise _ _ _ _ (hwave.trans hw)

/-- R156: equal seeds stay equal. -/
theorem track_seed_eq_of_noise {s : State} {c d : Nat} {a b : Channel} (ha : s.chans[c]? = some a)
    (hb : s.chans[d]? = some b) (hwa : a.wave = .noise) (hwb : b.wave = .noise) (hseed : a.seed = b.seed) (n : Nat) :
    (s.track c n).seed = (s.track d n).seed := by
  induction n with
  | zero => rwa [s.track_zero c a ha, s.track_zero d b hb]
  | succ n ih => rw [(track_of_noise ha hwa n).2, (track_of_noise hb hwb n).2, ih]

/-- Settles O41: equal seeds before each STEP, so equal draws in it. -/
theorem equalSeedsGiveEqualNoise : Obligations.EqualSeedsGiveEqualNoise := by
  intro s c d a b ha hb hwa hwb hseed n hn
  have hseeds := track_seed_eq_of_noise ha hb hwa hwb hseed
  refine ⟨_, _, chans_render_track ha n, chans_render_track hb n, ?_, hseeds n⟩
  obtain ⟨k, rfl⟩ := Nat.exists_eq_add_of_le' hn
  rw [(track_of_noise ha hwa k).1, (track_of_noise hb hwb k).1, hseeds k]

/-- `t` holds voice `v` of `s` as its voice 0, and the same sine table (R3). -/
structure SameVoice (v : Nat) (s t : State) : Prop where
  osc1    : s.chan? (2 * v) = t.chan? 0
  osc2    : s.chan? (2 * v + 1) = t.chan? 1
  quarter : s.build.quarter = t.build.quarter

/-- R141: STEP of a voice reads that voice alone. -/
theorem SameVoice.sampleStep {v : Nat} {s t : State} (h : SameVoice v s t) :
    SameVoice v s.sampleStep t.sampleStep where
  osc1 := by
    rw [State.chan?_sampleStep, State.chan?_sampleStep, ← h.osc1, h.quarter]
    refine Option.map_congr fun ch _ => ?_
    rw [Channel.syncEnAt_eq_false (not_synced_even v ch), Channel.syncEnAt_eq_false (not_synced_even 0 ch)]
    rfl
  osc2 := by
    have hmaster : s.masterInc (2 * v + 1) = t.masterInc 1 := by
      rw [State.masterInc, State.masterInc, Nat.add_sub_cancel, h.osc1]
    rw [State.chan?_sampleStep, State.chan?_sampleStep, ← h.osc2, h.quarter]
    refine Option.map_congr fun ch _ => ?_
    have hodd : ch.syncEnAt (2 * v + 1) = ch.syncEnAt 1 := by
      rw [Channel.syncEnAt, oddChannel, Nat.mul_add_mod]
      rfl
    rw [hodd, hmaster]
  quarter := h.quarter

theorem SameVoice.render {v : Nat} {s t : State} (h : SameVoice v s t) (n : Nat) :
    SameVoice v (s.render n) (t.render n) := by
  induction n with
  | zero => exact h
  | succ n ih =>
    rw [State.render_succ_last, State.render_succ_last]
    exact ih.sampleStep

/-- Settles O44: the voice alone stays what it is in the engine, STEP by STEP. -/
theorem engineEqualsSeparateVoices : Obligations.EngineEqualsSeparateVoices := by
  intro s v n osc1 osc2 hosc1 hosc2
  have hsame : SameVoice v s { s with chans := [osc1, osc2] } := ⟨hosc1, hosc2, rfl⟩
  obtain ⟨hfirst, hsecond, -⟩ := hsame.render n
  exact ⟨hfirst, hsecond⟩

end Sys2Proof.Machine
